-- ==== Sys2Proof/Word.lean ====
section
/-! DEFINITION. The words of the unit (00_scope.md R9, 10_state.md R21) and the NaN patterns a NaN draw ranges over
(40_lane_primitives.md R109). -/

namespace Sys2Proof

/-- The 8-bit operation word of a request (R70). -/
abbrev OpWord := BitVec 8

/-- A binary32 pattern or a 32-bit integer lane (R9, R24). -/
abbrev W32 := BitVec 32

/-- A binary64 pattern (R9). -/
abbrev W64 := BitVec 64

/-- An operand or result vector, 256 bits (R21). -/
abbrev Vec := BitVec 256

/-- The 8 lanes of the WideFloat32 or WideInt32 view (R22, R24). -/
abbrev Lanes32 := Fin 8 → W32

/-- The 4 lanes of the WideFloat64 view (R23). -/
abbrev Lanes64 := Fin 4 → W64

/-- A binary32 NaN: its sign, and its fraction less one. R109 promises that an arithmetic NaN is a NaN and nothing
more. This type has exactly one value for each of the NaN patterns of R101. -/
structure NaN32 where
  neg : Bool
  fracLessOne : Fin 8388607
deriving DecidableEq, Repr, Inhabited

/-- A binary64 NaN: its sign, and its fraction less one (R101, R109). -/
structure NaN64 where
  neg : Bool
  fracLessOne : Fin 4503599627370495
deriving DecidableEq, Repr, Inhabited

end Sys2Proof
end

