-- ==== Sys2Proof/Syntax.lean ====
section
/-! DEFINITION. The seven operations of the unit (00_scope.md R3, 30_encoding.md R75) and the fields of an operation
word (R70). No operation has an operand in its word (R74), so every constructor is a bare name. -/

namespace Sys2Proof

/-- One constructor per row of spec/opcode_table.json. -/
inductive Instr where
  /-- `psin.f32`, R271. -/
  | psinF32
  /-- `plog.f32`, R251. -/
  | plogF32
  /-- `pexp.f32`, R231. -/
  | pexpF32
  /-- `psqrt.f32`, R200 (R204 or R209). -/
  | psqrtF32
  /-- `prsqrt.f32`, R200 (R206 or R210). -/
  | prsqrtF32
  /-- `psqrt.f64`, R215. -/
  | psqrtF64
  /-- `prsqrt.f64`, R216. -/
  | prsqrtF64
deriving DecidableEq, Repr, Inhabited

/-- The three fields of format OP8 (R70): `FUNC` = op[2:0], `PREC` = op[3:3], `RSV` = op[7:4]. -/
structure OpFields where
  func : BitVec 3
  prec : BitVec 1
  rsv : BitVec 4
deriving DecidableEq, Repr

/-- The fields of each operation (the table of R75). -/
def Instr.fields : Instr → OpFields
  | .psinF32 => ⟨0, 0, 0⟩
  | .plogF32 => ⟨1, 0, 0⟩
  | .pexpF32 => ⟨2, 0, 0⟩
  | .psqrtF32 => ⟨3, 0, 0⟩
  | .prsqrtF32 => ⟨4, 0, 0⟩
  | .psqrtF64 => ⟨3, 1, 0⟩
  | .prsqrtF64 => ⟨4, 1, 0⟩

end Sys2Proof
end

