-- ==== Sys2Proof/Config.lean ====
section
/-! DEFINITION. What an implementation fixes (00_scope.md R6) and the free values. The configuration that has pins is the
structure `Cfg`, held in State (log 4). The parameters that are functions, and every free value, are opaque constants:
no proof can see what they are. -/

namespace Sys2Proof

/-- Table `KS` (41_poly_range.md R161), 13 binary32 patterns. -/
structure TableKS where
  S_1PI : W32
  S_NP1 : W32
  S_NP2 : W32
  S_NP3 : W32
  S_4PI : W32
  S_R0 : W32
  S_R2 : W32
  S_R4 : W32
  S_R6 : W32
  S_L1 : W32
  S_L3 : W32
  S_L5 : W32
  S_L7 : W32
deriving DecidableEq, Repr, Inhabited

/-- Table `KE` (R162). `E_PS` lists `E_P1`, `E_P2`, … in order: its length is `N_EXP` less one, 5 by default (log 17). -/
structure TableKE where
  E_HI : W32
  E_LO : W32
  E_LOG2EF : W32
  E_P0 : W32
  E_PS : List W32
  E_NLN2 : W32
  E_C1 : W32
  E_C2 : W32
deriving DecidableEq, Repr, Inhabited

/-- Table `KL` (R163), 12 binary32 patterns. -/
structure TableKL where
  L_SQRTHF : W32
  L_P0 : W32
  L_P1 : W32
  L_P2 : W32
  L_P3 : W32
  L_P4 : W32
  L_P5 : W32
  L_P6 : W32
  L_P7 : W32
  L_P8 : W32
  L_Q1 : W32
  L_Q2 : W32
deriving DecidableEq, Repr, Inhabited

/-- The configuration a requester sets before it releases reset (R6, R28, R333). -/
structure Cfg where
  /-- `CFG_FMA` -/
  fma : Bool
  /-- `CFG_WIDE_SHIFT` -/
  wideShift : Bool
  /-- `CFG_SQRT32_APPROX` -/
  sqrt32Approx : Bool
  /-- `CFG_RSQRT32_APPROX` -/
  rsqrt32Approx : Bool
  /-- `P_PSQRT_RAW_MAX` -/
  psqrtRawMax : Bool
  ks : TableKS
  ke : TableKE
  kl : TableKL
deriving DecidableEq, Repr, Inhabited

/-- The primitives that can produce a NaN (R102 to R108, R113, R203). A multiply-add of the unfused path is a `fmul` and
then a `fadd`. -/
inductive Prim where
  | fadd | fsub | fmul | fdiv | fma | fsqrt | ffloor | rsqrtEst
deriving DecidableEq, Repr

/-- The NaN an application of a primitive draws, from the primitive and its operands (R109). -/
abbrev Draw32 := Prim → List W32 → NaN32

/-- The NaN draws of one lane of one operation: by the rule whose pseudocode the application stands in and its line
there, then as `Draw32`. -/
abbrev Draws32 := Nat → Nat → Draw32

/-- As `Draw32`, on binary64. -/
abbrev Draw64 := Prim → List W64 → NaN64

/-- As `Draws32`, on binary64. -/
abbrev Draws64 := Nat → Nat → Draw64

/-- The parameters of an implementation that are functions: `NAN_RESULT` (R109), by operation and lane, and the raw
bits of the estimate instruction (R203). The dataflows take it as an argument; the machine runs them with
`Config.env`. -/
structure Env where
  nan32 : Instr → Nat → Draws32
  nan64 : Instr → Nat → Draws64
  est : W32 → W32

/-- `NAN_RESULT` on binary32 (R109, I1): nothing is known of it but that it is a NaN (log 5). -/
opaque Config.nanResult32 : Instr → Nat → Draws32

/-- `NAN_RESULT` on binary64 (R109, I1). -/
opaque Config.nanResult64 : Instr → Nat → Draws64

/-- The bits of the estimate instruction (R203, I4); `Machine.rsqrtEst` uses them where they meet the contract
(log 6). -/
opaque Config.rsqrtEstRaw : W32 → W32

/-- The configuration that stands on the pins at reset: whatever the requester set (R333; log 4). -/
opaque Config.boot : Cfg

/-- `LATENCY` of an operation word, less one (R339; log 8). -/
opaque Config.latencyLessOne : OpWord → Nat

/-- `QDEPTH`, less one (R339; log 9). -/
opaque Config.qdepthLessOne : Nat

/-- Whether the unit would hold `req_ready` low in a cycle although it has room (R335; log 9). -/
opaque Config.holdOff : Nat → Bool

/-- In how many cycles with `rsp_ready` = 1 the unit may hold `req_ready` low with room in `Q` before it is ready (R331,
R336; log 9). -/
opaque Config.patience : Nat

/-- `rsp_y` in a cycle where `rsp_valid` = 0 (R34, I12; log 7). -/
opaque Config.idleY : Nat → Vec

/-- `rsp_err` in a cycle where `rsp_valid` = 0 (R34, I12; log 7). -/
opaque Config.idleErr : Nat → Bool

/-- The result of a request that was in `Q` when the configuration changed (R333, I10; log 11). -/
opaque Config.spoiledY : Nat → Vec

/-- What an offered response shows after a change of configuration under it (R333, I10; log 11). -/
opaque Config.heldY : Nat → Vec

/-- Whether a request whose requester broke the handshake is taken (R334, I11; log 10). -/
opaque Config.brokenTaken : Nat → Bool

/-- With what operation word such a request is taken (R334; log 10). -/
opaque Config.brokenOp : Nat → OpWord

/-- With what operand such a request is taken (R334, I11; log 10). -/
opaque Config.brokenA : Nat → Vec

end Sys2Proof
end

