-- ==== Sys2Proof/Machine/Operands.lean ====
section
/-! DEFINITION. The views of an operand or result vector (10_state.md R21 to R24, 20_memory.md R52): the one operand form
of the unit is the whole vector, read in the view its operation has (30_encoding.md R72, R74). -/

namespace Sys2Proof.Machine

/-- The WideFloat32 view: lane `i` is bits `32i+31 .. 32i` (R22). -/
def lanes32 (v : Vec) : Lanes32 := fun i => v.extractLsb' (32 * i.val) 32

/-- The WideFloat64 view: lane `i` is bits `64i+63 .. 64i` (R23). -/
def lanes64 (v : Vec) : Lanes64 := fun i => v.extractLsb' (64 * i.val) 64

/-- The vector of 8 binary32 lanes, lane 0 lowest (R22, R52). -/
def ofLanes32 (f : Lanes32) : Vec := f 7 ++ f 6 ++ f 5 ++ f 4 ++ f 3 ++ f 2 ++ f 1 ++ f 0

/-- The vector of 4 binary64 lanes, lane 0 lowest (R23, R52). -/
def ofLanes64 (f : Lanes64) : Vec := f 3 ++ f 2 ++ f 1 ++ f 0

/-- Byte `k` of a vector: bits `8k+7 .. 8k` (R52). -/
def byteOf (v : Vec) (k : Nat) : BitVec 8 := v.extractLsb' (8 * k) 8

/-- The NaN draws of a lane of a binary32 operation (R109). -/
def draws32 (env : Env) (i : Instr) (lane : Fin 8) : Draws32 := env.nan32 i lane.val

/-- The NaN draws of a lane of a binary64 operation (R109). -/
def draws64 (env : Env) (i : Instr) (lane : Fin 4) : Draws64 := env.nan64 i lane.val

end Sys2Proof.Machine
end

