-- ==== Sys2Proof/WellFormed.lean ====
section
/-! DEFINITION. When the fields of an operation word name an operation (30_encoding.md R71 to R73, R76). -/

namespace Sys2Proof

/-- `RSV` must be 0 (R73). -/
def OpFields.rsvZero (f : OpFields) : Bool := f.rsv == 0

/-- `FUNC` values 5, 6 and 7 name no function (R71). -/
def OpFields.funcNamed (f : OpFields) : Bool := decide (f.func.toNat ≤ 4)

/-- `PREC` = 1 is legal only with `FUNC` 3 or 4 (R72). -/
def OpFields.precAllowed (f : OpFields) : Bool := f.prec == 0 || f.func == 3 || f.func == 4

/-- The three checks together: the fields name one of the seven operations (R76 negated). -/
def OpFields.wellFormed (f : OpFields) : Bool := f.rsvZero && f.funcNamed && f.precAllowed

/-- An operation is well formed when its fields are. -/
def Instr.wellFormed (i : Instr) : Bool := i.fields.wellFormed

end Sys2Proof
end

