-- ==== Sys2Proof/Decode.lean ====
section
/-! DEFINITION. The decoder of operation words, total on any bytes and rejecting by name (30_encoding.md R70 to R78),
and the encoder written from the same table (R75). -/

namespace Sys2Proof

/-- Why bytes name no operation. -/
inductive DecodeError where
  /-- no byte to decode -/
  | noWord
  /-- `RSV` is not 0 (R73) -/
  | reservedBits
  /-- `FUNC` is 5, 6 or 7 (R71) -/
  | reservedFunc
  /-- `PREC` = 1 with a function that has no binary64 form (R72) -/
  | noBinary64Form
deriving DecidableEq, Repr

/-- The fields of an operation word (R70). -/
def opFields (w : OpWord) : OpFields :=
  ⟨w.extractLsb' 0 3, w.extractLsb' 3 1, w.extractLsb' 4 4⟩

/-- The operation word of three fields (R70): `RSV ++ PREC ++ FUNC`. -/
def fieldsWord (f : OpFields) : OpWord := f.rsv ++ f.prec ++ f.func

/-- The operation the fields name (R71, R72, R75), or why there is none (R76). -/
def decodeFields (f : OpFields) : Except DecodeError Instr :=
  if f.rsv ≠ 0 then .error .reservedBits
  else
    match f.func.toNat, f.prec.toNat with
    | 0, 0 => .ok .psinF32
    | 1, 0 => .ok .plogF32
    | 2, 0 => .ok .pexpF32
    | 3, 0 => .ok .psqrtF32
    | 4, 0 => .ok .prsqrtF32
    | 3, 1 => .ok .psqrtF64
    | 4, 1 => .ok .prsqrtF64
    | 0, _ => .error .noBinary64Form
    | 1, _ => .error .noBinary64Form
    | 2, _ => .error .noBinary64Form
    | _, _ => .error .reservedFunc

/-- Decode one operation word (R75, R76): all 8 bits decide (R78). -/
def decodeWord (w : OpWord) : Except DecodeError Instr := decodeFields (opFields w)

/-- Decode the first instruction of a list of bytes, and give back the rest. Every instruction is one byte (R78). -/
def decode : List (BitVec 8) → Except DecodeError (Instr × List (BitVec 8))
  | [] => .error .noWord
  | w :: rest =>
    match decodeWord w with
    | .ok i => .ok (i, rest)
    | .error e => .error e

/-- `legal(op)` of R75. -/
def legal (w : OpWord) : Bool := (opFields w).wellFormed

/-- The operation word of an operation (R75). -/
def encodeWord (i : Instr) : OpWord := fieldsWord i.fields

/-- The bytes of an operation: one (R78). -/
def encode (i : Instr) : List (BitVec 8) := [encodeWord i]

/-- The operation word among the `nbits` low bits of `w`: the bits above are 0, and no operation is longer than
8 bits (R78). -/
def tableWord (nbits w : Nat) : OpWord := BitVec.ofNat 8 (w % 2 ^ nbits)

/-- What the decoder reads from an instruction whose bits are `w`, numbered as spec/opcode_table.json numbers them. -/
def decodeTableWord (nbits w : Nat) : Option Instr :=
  match decode [tableWord nbits w] with
  | .ok (i, _) => some i
  | .error _ => none

end Sys2Proof
end

