-- ==== Sys2Proof/Machine/Params.lean ====
section
/-! DEFINITION. The implementation the machine runs with, and the parameters derived from the opaque constants of Config:
`LATENCY` and `QDEPTH` (70_reset_and_hazards.md R339) and the unit's choice of `req_ready` (R331, R335, R336). -/

namespace Sys2Proof

/-- The implementation the machine runs with. -/
def Config.env : Env := ⟨Config.nanResult32, Config.nanResult64, Config.rsqrtEstRaw⟩

/-- `LATENCY` ≥ 1, each operation word its own (R339). -/
def Config.latency (op : OpWord) : Nat := Config.latencyLessOne op + 1

/-- `QDEPTH` ≥ 1, the capacity of `Q` (R339). -/
def Config.qdepth : Nat := Config.qdepthLessOne + 1

/-- `req_ready` out of reset in cycle `cycle`, when `rsp_ready` is `rspReady`, the unit's patience is used up to `held`
and `Q` has `len` entries. The unit may hold it low in any cycle (R335); with room, only the cycles in which `rsp_ready`
is given count against its patience (R331, R336; log 9). -/
def Config.ready (rspReady : Bool) (cycle held len : Nat) : Bool :=
  decide (len < Config.qdepth) && !(Config.holdOff cycle && (!rspReady || decide (held < Config.patience)))

end Sys2Proof
end

