-- ==== Sys2Proof/Machine/State.lean ====
section
/-! DEFINITION. The state of the unit at one clock cycle (10_state.md R20, R29, R34), and the machine right after reset
(70_reset_and_hazards.md R331). INVENTORY.md lists every field with the rule that names it. -/

namespace Sys2Proof.Machine

/-- What the requester drives in one cycle: the input ports of R20 and the configuration (R28, R333). -/
structure Pins where
  /-- `rst_n`, active low -/
  rstN : Bool
  /-- `req_valid` -/
  reqValid : Bool
  /-- `req_op` -/
  reqOp : OpWord
  /-- `req_a` -/
  reqA : Vec
  /-- `rsp_ready` -/
  rspReady : Bool
  /-- the configuration (log 4) -/
  cfg : Cfg
deriving DecidableEq, Repr

/-- A request in flight (R29), with the model's own two fields (log 19). -/
structure Entry where
  /-- the operation word -/
  op : OpWord
  /-- the operand vector -/
  a : Vec
  /-- how many cycles of its `LATENCY` still have to run (R339) -/
  wait : Nat
  /-- whether configuration changed while the request was in `Q` (R333) -/
  spoiled : Bool
deriving DecidableEq, Repr

/-- The unit and its pins in one clock cycle. -/
structure State where
  /-- the input pins in this cycle (R20) -/
  pins : Pins
  /-- `req_ready` in this cycle -/
  reqReady : Bool
  /-- `rsp_valid` in this cycle -/
  rspValid : Bool
  /-- `rsp_y` in this cycle -/
  rspY : Vec
  /-- `rsp_err` in this cycle -/
  rspErr : Bool
  /-- the in-flight queue `Q`, head first (R29) -/
  q : List Entry
  /-- model's own: the requester broke the stability rule and the offer is unresolved (R334, log 10) -/
  reqBroken : Bool
  /-- model's own: in how many cycles with `rsp_ready` = 1 the unit has held `req_ready` low with room in `Q`, since it was
  last ready or without room (R331, R336, log 9) -/
  held : Nat
  /-- model's own: the counter free values are applied to (log 19) -/
  cycle : Nat
  /-- model's own: what the requester will drive in the coming cycles (log 2) -/
  script : List Pins
deriving DecidableEq, Repr

/-- Why the machine stops. The unit itself has no fault (R305). -/
inductive Fault where
  /-- Raised by an instruction's meaning at a state whose `Q` is empty: no request, so no operand (R20: every request
  produces one response, and nothing else does). Safe: `step` answers only a head of `Q` and never raises it
  (log 12). -/
  | noRequest
deriving DecidableEq, Repr

/-- Why an instruction is refused. -/
inductive Refusal where
  /-- Raised by no meaning and by no arm of `exec`: every operation of the table has its meaning. Safe: it stops. -/
  | notModelled (mnemonic : String)
deriving DecidableEq, Repr

/-- The first cycle with `rst_n` = 1 (R331): `Q` is empty, `rsp_valid` = 0, `req_ready` is the unit's free choice, and
`rsp_y` and `rsp_err` are unspecified (R34). The requester's other pins are idle (log 3); the configuration is whatever
it set (log 4). -/
def State.reset : State where
  pins :=
    { rstN := true, reqValid := false, reqOp := 0, reqA := 0, rspReady := false, cfg := Config.boot }
  reqReady := Config.ready false 0 0 0
  rspValid := false
  rspY := Config.idleY 0
  rspErr := Config.idleErr 0
  q := []
  reqBroken := false
  held := 0
  cycle := 0
  script := []

end Sys2Proof.Machine
end

