-- ==== Sys2Proof/Machine/Ops.lean ====
section
/-! DEFINITION. The named operations over the state: the queue and the two channels at a clock edge (10_state.md R20, R29,
70_reset_and_hazards.md R330 to R336), offering a response (R29), and the unit's one error (60_exceptions.md R302). -/

namespace Sys2Proof.Machine

/-- There is room in `Q` (R339). -/
def hasRoom (q : List Entry) : Bool := decide (q.length < Config.qdepth)

/-- The entry of a request the unit takes in this cycle: the first cycle its response can be offered is `LATENCY` cycles
later (R339). -/
def newEntry (op : OpWord) (a : Vec) : Entry := ⟨op, a, Config.latency op - 1, false⟩

/-- The request taken at the edge that ends this cycle (R20, R334). If the requester has broken the stability rule, then
once the offer ends (it is withdrawn, or `req_ready` is 1) whether a request is taken, and which, is free (log 10). -/
def takenRequest (s : State) : Option Entry :=
  if s.reqBroken then
    if (!s.pins.reqValid || s.reqReady) && hasRoom s.q && Config.brokenTaken s.cycle then
      some (newEntry (Config.brokenOp s.cycle) (Config.brokenA s.cycle))
    else none
  else if s.pins.reqValid && s.reqReady then some (newEntry s.pins.reqOp s.pins.reqA)
  else none

/-- The response is taken in this cycle (R20). -/
def responseTaken (s : State) : Bool := s.rspValid && s.pins.rspReady

/-- One cycle of an entry's wait has run (R339). -/
def Entry.tick (e : Entry) : Entry := { e with wait := e.wait - 1 }

/-- `Q` without the head that was taken, and with the request that was taken (R29). -/
def queueAfterTransfers (s : State) : List Entry :=
  (if responseTaken s then s.q.tail else s.q).map Entry.tick ++ (takenRequest s).toList

/-- `Q` after the edge that ends this cycle: an edge with `rst_n` = 0 empties it (R330). -/
def queueAfterEdge (s : State) : List Entry := if s.pins.rstN then queueAfterTransfers s else []

/-- What the requester drives in the next cycle; with nothing left in the script the pins stay (log 2). -/
def nextPins (s : State) : Pins := s.script.headD s.pins

/-- The configuration changes at this edge (R333). -/
def cfgChanges (s : State) : Bool :=
  match s.script with
  | [] => false
  | p :: _ => decide (p.cfg ≠ s.pins.cfg)

/-- A change of configuration leaves the result of every request in `Q` unspecified (R333). -/
def spoil (changed : Bool) (q : List Entry) : List Entry :=
  q.map (fun e => { e with spoiled := e.spoiled || changed })

/-- The requester holds `req_valid`, `req_op` and `req_a` stable from `p` to `p'` (R334). -/
def holdsRequest (p p' : Pins) : Bool := p'.reqValid && p'.reqOp == p.reqOp && p'.reqA == p.reqA

/-- Whether the request offered in the next cycle is one whose requester broke the stability rule (R334): it was offered
and not taken in this cycle, and is changed or withdrawn now, or was broken before. -/
def brokenAfter (s : State) : Bool :=
  s.pins.reqValid && !s.reqReady && (s.reqBroken || !holdsRequest s.pins (nextPins s))

/-- The response offered in this cycle is still offered in the next one (R334): it is not taken, and no reset stands in
either cycle (R330). -/
def holdsResponse (s : State) : Bool :=
  s.rspValid && !s.pins.rspReady && s.pins.rstN && (nextPins s).rstN

/-- `rsp_y` of the next cycle before a new response is offered: a held response is stable (R334) unless the configuration
changed under it (R333, log 11); with `rsp_valid` = 0 it is free (R34, log 7). -/
def nextRspY (s : State) : Vec :=
  if holdsResponse s then (if cfgChanges s then Config.heldY (s.cycle + 1) else s.rspY)
  else Config.idleY (s.cycle + 1)

/-- `rsp_err` of the next cycle before a new response is offered. -/
def nextRspErr (s : State) : Bool := if holdsResponse s then s.rspErr else Config.idleErr (s.cycle + 1)

/-- `Q` in the next cycle. -/
def nextQueue (s : State) : List Entry := spoil (cfgChanges s) (queueAfterEdge s)

/-- `req_ready` in the next cycle: 0 in every cycle where `rst_n` = 0 (R330), and else the unit's choice (R331,
R335). -/
def nextReqReady (s : State) : Bool :=
  (nextPins s).rstN && Config.ready (nextPins s).rspReady (s.cycle + 1) s.held (nextQueue s).length

/-- The patience used up, counting the next cycle: one more for a cycle in which the unit holds `req_ready` low with room
while `rsp_ready` is given, none for one in which it is not (R331, R336; log 9). -/
def nextHeld (s : State) : Nat :=
  if (nextPins s).rstN && hasRoom (nextQueue s) && !nextReqReady s then
    (if (nextPins s).rspReady then s.held + 1 else s.held)
  else 0

/-- The rising edge of `clk` that ends this cycle: both channels transfer, reset acts, and the pins of the next cycle
stand. No new response is offered yet. -/
def clockEdge (s : State) : State where
  pins := nextPins s
  reqReady := nextReqReady s
  rspValid := holdsResponse s
  rspY := nextRspY s
  rspErr := nextRspErr s
  q := nextQueue s
  reqBroken := brokenAfter s
  held := nextHeld s
  cycle := s.cycle + 1
  script := s.script.tail

/-- The bytes of the operation the unit answers in this cycle: the head of `Q`, when no response is offered yet, reset
does not stand and its wait is over (R29, R330, R339). -/
def fetch (s : State) : Option (List (BitVec 8)) :=
  match s.q with
  | [] => none
  | e :: _ => if s.pins.rstN && !s.rspValid && e.wait == 0 then some [e.op] else none

/-- Offer a response (R29): the only fields an operation writes. -/
def State.offer (s : State) (y : Vec) (err : Bool) : State :=
  { s with rspValid := true, rspY := y, rspErr := err }

/-- The result a response for the entry carries: `f` of its operand, or a free value if the configuration changed while
the request was in `Q` (R333, log 11). -/
def resultFor (s : State) (e : Entry) (f : Vec → Vec) : Vec :=
  if e.spoiled then Config.spoiledY s.cycle else f e.a

/-- Answer the head of `Q` with `f` of its operand and the error bit `err` (R29, R31). -/
def State.answer (s : State) (err : Bool) (f : Vec → Vec) : Host.Outcome State Fault Refusal :=
  match s.q with
  | [] => .fault .noRequest
  | e :: _ => .next (s.offer (resultFor s e f) err)

/-- The illegal-operation response, the unit's one error: `(0^256, 1)`, whatever the operand (R301, R302). Nothing is
saved and nothing returns from it (R305, R306). -/
def illegalResponse (s : State) : Host.Outcome State Fault Refusal := s.answer true (fun _ => 0)

end Sys2Proof.Machine
end

