-- ==== Sys2Proof/Machine/Float.lean ====
section
/-! DEFINITION. Lane arithmetic (40_lane_primitives.md R101 to R110, R113, R132). Operands are read as exact data, the
operation is done exactly, and the result is rounded once, to nearest with ties to even (00_scope.md R12, R13). A
quotient and a root, which need not be dyadic, are given to the rounding as a dyadic number of many more bits than a
significand, between the same two neighbours of that grid. -/

namespace Sys2Proof.Machine

/-- A binary interchange format: how many fraction and exponent bits it has (R32, R33). -/
structure Fmt where
  fbits : Nat
  ebits : Nat
deriving DecidableEq, Repr

/-- binary32 (R32). -/
def b32 : Fmt := ⟨23, 8⟩

/-- binary64 (R33). -/
def b64 : Fmt := ⟨52, 11⟩

/-- A datum of R101: a NaN, an infinity, or the number `(-1)^neg · n · 2^e` (a zero keeps its sign). -/
inductive Datum where
  | nan
  | inf (neg : Bool)
  | fin (neg : Bool) (n : Nat) (e : Int)
deriving DecidableEq, Repr

/-- The exponent field of infinities and NaNs: 255 or 2047 (R101). -/
def Fmt.expMax (f : Fmt) : Nat := 2 ^ f.ebits - 1

/-- The pattern of `+∞`. -/
def Fmt.infMag (f : Fmt) : Nat := f.expMax * 2 ^ f.fbits

/-- The exponent of the lowest bit of a subnormal: -149 or -1074 (R101). -/
def Fmt.emin (f : Fmt) : Int := 2 - 2 ^ (f.ebits - 1) - f.fbits

/-- The datum of a pattern with sign `neg` and the bits `mag` below the sign (R101). -/
def Fmt.datum (f : Fmt) (neg : Bool) (mag : Nat) : Datum :=
  let ex := mag / 2 ^ f.fbits
  let frac := mag % 2 ^ f.fbits
  if ex = f.expMax then (if frac = 0 then .inf neg else .nan)
  else if ex = 0 then .fin neg frac f.emin
  else .fin neg (2 ^ f.fbits + frac) (f.emin + ex - 1)

/-- The bits of a binary32 pattern below its sign. -/
def mag32 (w : W32) : Nat := w.toNat % 2 ^ 31

/-- The bits of a binary64 pattern below its sign. -/
def mag64 (w : W64) : Nat := w.toNat % 2 ^ 63

/-- A binary32 pattern as a datum (R101). -/
def datum32 (w : W32) : Datum := b32.datum w.msb (mag32 w)

/-- A binary64 pattern as a datum (R101). -/
def datum64 (w : W64) : Datum := b64.datum w.msb (mag64 w)

/-- The pattern with a sign and the bits below it. -/
def pack32 (neg : Bool) (mag : Nat) : W32 := BitVec.ofNat 32 (mag + if neg then 2 ^ 31 else 0)

/-- As `pack32`, for binary64. -/
def pack64 (neg : Bool) (mag : Nat) : W64 := BitVec.ofNat 64 (mag + if neg then 2 ^ 63 else 0)

/-- `n / 2^k` rounded to an integer, to nearest, ties to even (R13). -/
def roundNat (n k : Nat) : Nat :=
  let m := n / 2 ^ k
  let r := n % 2 ^ k
  if 2 ^ k < 2 * r ∨ (2 * r = 2 ^ k ∧ m % 2 = 1) then m + 1 else m

/-- The exponent of the lowest significand bit a number `n · 2^e` keeps when it is rounded: `n ≠ 0` keeps `fbits + 1`
bits, fewer where the result is subnormal (R101, R110). -/
def Fmt.roundExp (f : Fmt) (n : Nat) (e : Int) : Int := max (e + n.log2 - f.fbits) f.emin

/-- The bits below the sign of `n · 2^e` rounded to the format (`round32`, `round64` of R101). The exponent field is laid
above the significand by addition, so a carry out of the significand raises the exponent; what would pass the largest
finite pattern is `∞`. -/
def Fmt.roundMag (f : Fmt) (n : Nat) (e : Int) : Nat :=
  if n = 0 then 0
  else
    let q := f.roundExp n e
    let m := if q ≤ e then n * 2 ^ (e - q).toNat else roundNat n (q - e).toNat
    min ((q - f.emin).toNat * 2 ^ f.fbits + m) f.infMag

/-- The pattern of a NaN draw (R109). -/
def bitsOfNaN32 (x : NaN32) : W32 := pack32 x.neg (b32.infMag + (x.fracLessOne.val + 1))

/-- As `bitsOfNaN32`, for binary64. -/
def bitsOfNaN64 (x : NaN64) : W64 := pack64 x.neg (b64.infMag + (x.fracLessOne.val + 1))

/-- An exact result as a binary32 pattern: rounded once, or the NaN drawn (R101, R109). -/
def finish32 (nan : NaN32) : Datum → W32
  | .nan => bitsOfNaN32 nan
  | .inf neg => pack32 neg b32.infMag
  | .fin neg n e => pack32 neg (b32.roundMag n e)

/-- An exact result as a binary64 pattern. -/
def finish64 (nan : NaN64) : Datum → W64
  | .nan => bitsOfNaN64 nan
  | .inf neg => pack64 neg b64.infMag
  | .fin neg n e => pack64 neg (b64.roundMag n e)

/-- The class NaN of R101, for binary32. -/
def isNaN32 (w : W32) : Bool := datum32 w == .nan

/-- The class NaN of R101, for binary64. -/
def isNaN64 (w : W64) : Bool := datum64 w == .nan

/-- A signed integer as sign and magnitude. -/
def signedInt (neg : Bool) (n : Nat) : Int := if neg then -(n : Int) else n

/-- `a` with its sign inverted, as an exact datum. -/
def negD : Datum → Datum
  | .nan => .nan
  | .inf s => .inf (!s)
  | .fin s n e => .fin (!s) n e

/-- The exact sum (R102): two infinities of opposite signs have none; a zero sum is `-0` only for two `-0`. -/
def addD : Datum → Datum → Datum
  | .nan, _ => .nan
  | _, .nan => .nan
  | .inf s, .inf t => if s = t then .inf s else .nan
  | .inf s, .fin _ _ _ => .inf s
  | .fin _ _ _, .inf t => .inf t
  | .fin s n e, .fin t m g =>
    let k := min e g
    let v := signedInt s (n * 2 ^ (e - k).toNat) + signedInt t (m * 2 ^ (g - k).toNat)
    if v = 0 then .fin (s && t && n == 0 && m == 0) 0 k
    else .fin (decide (v < 0)) v.natAbs k

/-- The exact product (R104). -/
def mulD : Datum → Datum → Datum
  | .nan, _ => .nan
  | _, .nan => .nan
  | .inf s, .inf t => .inf (s ^^ t)
  | .inf s, .fin t m _ => if m = 0 then .nan else .inf (s ^^ t)
  | .fin s n _, .inf t => if n = 0 then .nan else .inf (s ^^ t)
  | .fin s n e, .fin t m g => .fin (s ^^ t) (n * m) (e + g)

/-- A quotient of two numbers other than zero and infinity, `n·2^e / (m·2^g)`, as a dyadic number that rounds alike: the
integer quotient has at least 64 bits, and one more bit says whether a remainder is left (R105). -/
def quotD (s : Bool) (n : Nat) (e : Int) (m : Nat) (g : Int) : Datum :=
  let k := m.log2 + 64
  let p := n * 2 ^ k
  .fin s (2 * (p / m) + (if p % m = 0 then 0 else 1)) (e - g - k - 1)

/-- The quotient (R105). -/
def divD : Datum → Datum → Datum
  | .nan, _ => .nan
  | _, .nan => .nan
  | .inf _, .inf _ => .nan
  | .inf s, .fin t _ _ => .inf (s ^^ t)
  | .fin s _ _, .inf t => .fin (s ^^ t) 0 0
  | .fin s n e, .fin t m g =>
    if m = 0 then (if n = 0 then .nan else .inf (s ^^ t))
    else if n = 0 then .fin (s ^^ t) 0 0
    else quotD (s ^^ t) n e m g

/-- The integer square root by bits: `r` is the root so far, and bits `k - 1` down to 0 are still to be tried. -/
def isqrtBits (n : Nat) : Nat → Nat → Nat
  | 0, r => r
  | k + 1, r => isqrtBits n k (if (r + 2 ^ k) * (r + 2 ^ k) ≤ n then r + 2 ^ k else r)

/-- `⌊√n⌋`. -/
def isqrt (n : Nat) : Nat := isqrtBits n (n.log2 / 2 + 1) 0

/-- The root of `n·2^e`, `n ≠ 0`, as a dyadic number that rounds alike: the radicand is scaled by an even power of two, the
integer root has at least 64 bits, and one more bit says whether a remainder is left (R108). -/
def rootD (n : Nat) (e : Int) : Datum :=
  let k := 128 + (e % 2).toNat
  let m := n * 2 ^ k
  let r := isqrt m
  .fin false (2 * r + (if r * r = m then 0 else 1)) ((e - k) / 2 - 1)

/-- The square root (R108): the root of a negative number is no number, but `√-0` is `-0`. -/
def sqrtD : Datum → Datum
  | .nan => .nan
  | .inf s => if s then .nan else .inf false
  | .fin s n e => if n = 0 then .fin s 0 e else if s then .nan else rootD n e

/-- Rounding toward `-∞` to an integral value (R113). -/
def floorD : Datum → Datum
  | .nan => .nan
  | .inf s => .inf s
  | .fin s n e =>
    if n = 0 then .fin s 0 e
    else if 0 ≤ e then .fin s n e
    else
      let v := signedInt s n / 2 ^ (-e).toNat
      .fin (decide (v < 0)) v.natAbs 0

/-- `fadd` of R102, binary32. -/
def fadd (d : Draw32) (a b : W32) : W32 := finish32 (d .fadd [a, b]) (addD (datum32 a) (datum32 b))

/-- `fsub` of R103: the sum with the second operand's sign inverted; a NaN is one draw (log 15). -/
def fsub (d : Draw32) (a b : W32) : W32 := finish32 (d .fsub [a, b]) (addD (datum32 a) (negD (datum32 b)))

/-- `fmul` of R104. -/
def fmul (d : Draw32) (a b : W32) : W32 := finish32 (d .fmul [a, b]) (mulD (datum32 a) (datum32 b))

/-- `fdiv` of R105, binary32. -/
def fdiv (d : Draw32) (a b : W32) : W32 := finish32 (d .fdiv [a, b]) (divD (datum32 a) (datum32 b))

/-- `fma` of R106: the product is exact, and there is one rounding. -/
def fma (d : Draw32) (a b c : W32) : W32 :=
  finish32 (d .fma [a, b, c]) (addD (mulD (datum32 a) (datum32 b)) (datum32 c))

/-- `pmadd` of R107: fused or not, as `CFG_FMA` says. -/
def pmadd (fused : Bool) (d : Draw32) (a b c : W32) : W32 :=
  if fused then fma d a b c else fadd d (fmul d a b) c

/-- `fsqrt` of R108, binary32. -/
def fsqrt (d : Draw32) (a : W32) : W32 := finish32 (d .fsqrt [a]) (sqrtD (datum32 a))

/-- `ffloor` of R113. -/
def ffloor (d : Draw32) (a : W32) : W32 := finish32 (d .ffloor [a]) (floorD (datum32 a))

/-- `fdiv` of R105 on binary64 (R132). -/
def fdiv64 (d : Draw64) (a b : W64) : W64 := finish64 (d .fdiv [a, b]) (divD (datum64 a) (datum64 b))

/-- `fsqrt` of R108 on binary64 (R132). -/
def fsqrt64 (d : Draw64) (a : W64) : W64 := finish64 (d .fsqrt [a]) (sqrtD (datum64 a))

end Sys2Proof.Machine
end

