-- ==== Sys2Proof/Machine/Constants.lean ====
section
/-! DEFINITION. The common constants (41_poly_range.md R164), the masks' two words (00_scope.md R16) and the reference
tables (R161 to R163). The tables are one instance of a parameter: no meaning uses them (R160). -/

namespace Sys2Proof.Machine

/-- 0.25 -/
def C_QUARTER : W32 := 0x3E800000
/-- 0.5 -/
def C_HALF : W32 := 0x3F000000
/-- -0.5 -/
def C_MHALF : W32 := 0xBF000000
/-- 1.0 -/
def C_ONE : W32 := 0x3F800000
/-- 1.5 -/
def C_THREEHALF : W32 := 0x3FC00000
/-- 2.0 -/
def C_TWO : W32 := 0x40000000
/-- 126.0 -/
def C_126 : W32 := 0x42FC0000
/-- `FLT_MIN`, 2^-126 -/
def C_FLT_MIN : W32 := 0x00800000
/-- `-∞` -/
def C_MINF : W32 := 0xFF800000
/-- `+∞` -/
def C_PINF : W32 := 0x7F800000
/-- the precomputed NaN -/
def C_QNAN : W32 := 0x7FC00000
/-- the complement of the exponent mask -/
def C_MANT : W32 := 0x807FFFFF
/-- `+0` -/
def C_ZERO : W32 := 0x00000000
/-- the sign bit of binary32 -/
def C_SIGN : W32 := 0x80000000
/-- 1.0 in binary64 (R216) -/
def C_ONE64 : W64 := 0x3FF0000000000000

/-- Canonical mask "true" (R16). -/
def TRUE32 : W32 := 0xFFFFFFFF
/-- Canonical mask "false" (R16). -/
def FALSE32 : W32 := 0x00000000

/-- The reference values of `KS` (R161). -/
def referenceKS : TableKS where
  S_1PI := 0x3EA2F983
  S_NP1 := 0xC0490000
  S_NP2 := 0xBA7D8000
  S_NP3 := 0xB528885A
  S_4PI := 0x3FA2F983
  S_R0 := 0x3F800000
  S_R2 := 0xBE9DE9C9
  S_R4 := 0x3C81D7AE
  S_R6 := 0xB9A72F6B
  S_L1 := 0x3F490FDA
  S_L3 := 0xBDA55DD4
  S_L5 := 0x3B232D1F
  S_L7 := 0xB8167AEA

/-- The reference values of `KE` (R162). -/
def referenceKE : TableKE where
  E_HI := 0x42B0C0A5
  E_LO := 0xC2B0C0A5
  E_LOG2EF := 0x3FB8AA3B
  E_P0 := 0x39506967
  E_PS := [0x3AB743CE, 0x3C088908, 0x3D2AA9C1, 0x3E2AAAAA, 0x3F000000]
  E_NLN2 := 0xBF317218
  E_C1 := 0x3F318000
  E_C2 := 0xB95E8083

/-- The reference values of `KL` (R163). -/
def referenceKL : TableKL where
  L_SQRTHF := 0x3F3504F3
  L_P0 := 0x3D9021BB
  L_P1 := 0xBDEBD1B8
  L_P2 := 0x3DEF251A
  L_P3 := 0xBDFE5D4F
  L_P4 := 0x3E11E9BF
  L_P5 := 0xBE2AAE50
  L_P6 := 0x3E4CCEAC
  L_P7 := 0xBE7FFFFC
  L_P8 := 0x3EAAAAAA
  L_Q1 := 0xB95E8083
  L_Q2 := 0x3F318000

/-- The reference NaN draw (R109): the first NaN operand with its quiet bit set, else `0xFFC00000`. -/
def x86NaN32 : List W32 → NaN32
  | [] => ⟨true, 0x3FFFFF⟩
  | a :: rest =>
    if isNaN32 a then ⟨a.msb, Fin.ofNat 8388607 ((a.toNat % 2 ^ 22) + (2 ^ 22 - 1))⟩ else x86NaN32 rest

/-- As `x86NaN32`, on binary64: else `0xFFF8000000000000`. -/
def x86NaN64 : List W64 → NaN64
  | [] => ⟨true, 0x7FFFFFFFFFFFF⟩
  | a :: rest =>
    if isNaN64 a then ⟨a.msb, Fin.ofNat 4503599627370495 ((a.toNat % 2 ^ 51) + (2 ^ 51 - 1))⟩ else x86NaN64 rest

/-- The reference instance of the functional parameters (95_test_vectors.md §0). Its raw estimate meets the contract of
R203 nowhere, so `rsqrtEst` gives `EST_REF`. -/
def referenceEnv : Env := ⟨fun _ _ _ _ _ ops => x86NaN32 ops, fun _ _ _ _ _ ops => x86NaN64 ops, fun _ => 0⟩

/-- The reference configuration with the four choices the vectors run both ways (95_test_vectors.md §0). -/
def referenceCfg (fma sqrtApprox rsqrtApprox rawMax : Bool) : Cfg :=
  ⟨fma, true, sqrtApprox, rsqrtApprox, rawMax, referenceKS, referenceKE, referenceKL⟩

end Sys2Proof.Machine
end

