-- ==== Sys2Proof/Machine/Flags.lean ====
section
/-! DEFINITION. compare_mask_select (40_lane_primitives.md R111, R112, R114 to R117). The unit has no flags and no
condition codes (10_state.md R27); its only conditions are lane masks. -/

namespace Sys2Proof.Machine

/-- Comparison by value; none when an operand is a NaN (R114). -/
def cmpD : Datum → Datum → Option Ordering
  | .nan, _ => none
  | _, .nan => none
  | .inf s, .inf t => some (compare (signedInt s 1) (signedInt t 1))
  | .inf s, .fin _ _ _ => some (if s then .lt else .gt)
  | .fin _ _ _, .inf t => some (if t then .gt else .lt)
  | .fin s n e, .fin t m g =>
    let k := min e g
    some (compare (signedInt s (n * 2 ^ (e - k).toNat)) (signedInt t (m * 2 ^ (g - k).toNat)))

/-- The mask word of a condition (R24). -/
def maskOf (b : Bool) : W32 := if b then TRUE32 else FALSE32

/-- `cmp_GT_OQ` (R114). -/
def cmpGT (a b : W32) : W32 := maskOf (cmpD (datum32 a) (datum32 b) == some .gt)

/-- `cmp_GE_OQ` (R114). -/
def cmpGE (a b : W32) : W32 :=
  maskOf (cmpD (datum32 a) (datum32 b) == some .gt || cmpD (datum32 a) (datum32 b) == some .eq)

/-- `cmp_LT_OQ` (R114). -/
def cmpLT (a b : W32) : W32 := maskOf (cmpD (datum32 a) (datum32 b) == some .lt)

/-- `cmp_NGE_UQ` (R114): true on a NaN. -/
def cmpNGE (a b : W32) : W32 :=
  maskOf (cmpD (datum32 a) (datum32 b) == none || cmpD (datum32 a) (datum32 b) == some .lt)

/-- `cmp_EQ_OQ` (R114). -/
def cmpEQ (a b : W32) : W32 := maskOf (cmpD (datum32 a) (datum32 b) == some .eq)

/-- `vand` (R116). -/
def vand (a b : W32) : W32 := a &&& b

/-- `vor` (R116). -/
def vor (a b : W32) : W32 := a ||| b

/-- `vxor` (R116). -/
def vxor (a b : W32) : W32 := a ^^^ b

/-- `vandnot` (R116): the first operand is inverted. -/
def vandnot (m a : W32) : W32 := ~~~m &&& a

/-- `select` (R117), built from bitwise composition. -/
def select (m a b : W32) : W32 := vor (vand m a) (vandnot m b)

/-- `fmax` (R111): the chosen operand bit for bit; the second when unordered. -/
def fmax (a b : W32) : W32 := if cmpGT a b = TRUE32 then a else b

/-- `fmin` (R112). -/
def fmin (a b : W32) : W32 := if cmpLT a b = TRUE32 then a else b

end Sys2Proof.Machine
end

