-- ==== Sys2Proof/Machine/BitManip.lean ====
section
/-! DEFINITION. ieee754_bit_manipulator (40_lane_primitives.md R118 to R131, R134): the conversions, the integer add, the
shifts on both paths, and the named compositions. Shifts act on whole vectors (R123), so the compositions that hold one
take and give 8 lanes. -/

namespace Sys2Proof.Machine

/-- `cast_f2i` (R118): no bit changes. -/
def castF2I (a : W32) : W32 := a

/-- `cast_i2f` (R118): no bit changes. -/
def castI2F (a : W32) : W32 := a

/-- The value out of range of `cvtt_f2i` (R119, D15). -/
def intIndefinite : W32 := 0x80000000

/-- A number truncated toward zero (R119). -/
def truncInt (neg : Bool) (n : Nat) (e : Int) : Int :=
  signedInt neg (if 0 ≤ e then n * 2 ^ e.toNat else n / 2 ^ (-e).toNat)

/-- `cvtt_f2i` (R119). -/
def cvttF2I (a : W32) : W32 :=
  match datum32 a with
  | .fin neg n e =>
    let t := truncInt neg n e
    if -2 ^ 31 ≤ t ∧ t ≤ 2 ^ 31 - 1 then BitVec.ofInt 32 t else intIndefinite
  | _ => intIndefinite

/-- `cvt_i2f` (R120). -/
def cvtI2F (i : W32) : W32 := pack32 i.msb (b32.roundMag i.toInt.natAbs 0)

/-- `iadd` (R121): modulo 2^32. -/
def iadd (a b : W32) : W32 := a + b

/-- `shl` (R122): zeros fill. -/
def shl (a : W32) (n : Nat) : W32 := a <<< n

/-- `shr` (R122): logical. -/
def shr (a : W32) (n : Nat) : W32 := a >>> n

/-- The wide path of a shift (R124). -/
def shiftWide (f : W32 → W32) (v : Lanes32) : Lanes32 := fun i => f (v i)

/-- The low half of the lanes, lanes 0 to 3 (R125). -/
def lowHalf (v : Lanes32) : Fin 4 → W32 := fun j => v ⟨j.val, by omega⟩

/-- The high half of the lanes, lanes 4 to 7 (R125). -/
def highHalf (v : Lanes32) : Fin 4 → W32 := fun j => v ⟨4 + j.val, by omega⟩

/-- Put two halves together again, the low half in lanes 0 to 3 (R126). -/
def reassemble (lo hi : Fin 4 → W32) : Lanes32 := fun i =>
  if h : i.val < 4 then lo ⟨i.val, h⟩ else hi ⟨i.val - 4, by omega⟩

/-- The split path of a shift (R125, R126). -/
def shiftSplit (f : W32 → W32) (v : Lanes32) : Lanes32 :=
  reassemble (fun j => f (lowHalf v j)) (fun j => f (highHalf v j))

/-- `vshl` (R123): `wide` is `CFG_WIDE_SHIFT`. -/
def vshl (wide : Bool) (v : Lanes32) (n : Nat) : Lanes32 :=
  if wide then shiftWide (fun a => shl a n) v else shiftSplit (fun a => shl a n) v

/-- `vshr` (R123). -/
def vshr (wide : Bool) (v : Lanes32) (n : Nat) : Lanes32 :=
  if wide then shiftWide (fun a => shr a n) v else shiftSplit (fun a => shr a n) v

/-- `expo_f` (R128): the biased exponent as a binary32 value. -/
def expoF (wide : Bool) (x : Lanes32) : Lanes32 :=
  let r := vshr wide (fun i => castF2I (x i)) 23
  fun i => cvtI2F (r i)

/-- `pow2_f` (R129): `2^m` built in the exponent field. -/
def pow2F (wide : Bool) (m : Lanes32) : Lanes32 :=
  let p := vshl wide (fun i => iadd (cvttF2I (m i)) 127) 23
  fun i => castI2F (p i)

/-- `sflip` (R130): the low bit of the truncated integer at bit 31. -/
def sflip (wide : Bool) (s : Lanes32) : Lanes32 :=
  vshl wide (fun i => vand (cvttF2I (s i)) 1) 31

/-- `mant_half` (R131): the exponent field becomes 126. -/
def mantHalf (x : W32) : W32 := vor (vand x C_MANT) C_HALF

end Sys2Proof.Machine
end

