-- ==== Sys2Proof/Machine/Poly.lean ====
section
/-! DEFINITION. polynomial_evaluator (41_poly_range.md R165 to R168). Every line is one primitive and one rounding
(00_scope.md R12); `d rule line` is the NaN draw of that line of that rule's pseudocode (log 5). -/

namespace Sys2Proof.Machine

/-- The Horner lines of R165: `y <- pmadd(y, r, E_Pk)` for each further coefficient, line by line. -/
def hornerExp (fused : Bool) (d : Draws32) (r : W32) : Nat → List W32 → W32 → W32
  | _, [], y => y
  | line, p :: ps, y => hornerExp fused d r (line + 1) ps (pmadd fused (d 165 line) y r p)

/-- `exp_poly` (R165). The Horner lines are numbered from 4 on, after the three others. -/
def expPoly (cfg : Cfg) (d : Draws32) (r : W32) : W32 :=
  let r2 := fmul (d 165 1) r r
  let y := hornerExp cfg.fma d r 4 cfg.ke.E_PS cfg.ke.E_P0
  let y := pmadd cfg.fma (d 165 2) y r2 r
  fadd (d 165 3) y C_ONE

/-- `sin_odd` (R166). -/
def sinOdd (cfg : Cfg) (d : Draws32) (z : W32) : W32 :=
  let z2 := fmul (d 166 1) z z
  let l := pmadd cfg.fma (d 166 2) cfg.ks.S_L7 z2 cfg.ks.S_L5
  let l := pmadd cfg.fma (d 166 3) l z2 cfg.ks.S_L3
  let l := pmadd cfg.fma (d 166 4) l z2 cfg.ks.S_L1
  fmul (d 166 5) l z

/-- `sin_even` (R167). -/
def sinEven (cfg : Cfg) (d : Draws32) (z : W32) : W32 :=
  let w := fsub (d 167 1) z C_TWO
  let w2 := fmul (d 167 2) w w
  let r := pmadd cfg.fma (d 167 3) cfg.ks.S_R6 w2 cfg.ks.S_R4
  let r := pmadd cfg.fma (d 167 4) r w2 cfg.ks.S_R2
  pmadd cfg.fma (d 167 5) r w2 cfg.ks.S_R0

/-- `log_poly` (R168): the polynomial times `x^3`, and `x^2`. -/
def logPoly (cfg : Cfg) (d : Draws32) (x : W32) : W32 × W32 :=
  let x2 := fmul (d 168 1) x x
  let x3 := fmul (d 168 2) x2 x
  let ya := pmadd cfg.fma (d 168 3) cfg.kl.L_P0 x cfg.kl.L_P1
  let yb := pmadd cfg.fma (d 168 4) cfg.kl.L_P3 x cfg.kl.L_P4
  let yc := pmadd cfg.fma (d 168 5) cfg.kl.L_P6 x cfg.kl.L_P7
  let ya := pmadd cfg.fma (d 168 6) ya x cfg.kl.L_P2
  let yb := pmadd cfg.fma (d 168 7) yb x cfg.kl.L_P5
  let yc := pmadd cfg.fma (d 168 8) yc x cfg.kl.L_P8
  let y := pmadd cfg.fma (d 168 9) ya x3 yb
  let y := pmadd cfg.fma (d 168 10) y x3 yc
  (fmul (d 168 11) y x3, x2)

end Sys2Proof.Machine
end

