-- ==== Sys2Proof/Machine/RangeReduce.lean ====
section
/-! DEFINITION. fp_range_reducer (41_poly_range.md R169 to R172). -/

namespace Sys2Proof.Machine

/-- `rr_sin` (R169): `(z, shift)`. There is no clamp on the input. -/
def rrSin (cfg : Cfg) (d : Draws32) (x : W32) : W32 × W32 :=
  let z0 := fmul (d 169 1) x cfg.ks.S_1PI
  let shift := ffloor (d 169 2) (fadd (d 169 2) z0 C_QUARTER)
  let x1 := pmadd cfg.fma (d 169 3) shift cfg.ks.S_NP1 x
  let x2 := pmadd cfg.fma (d 169 4) shift cfg.ks.S_NP2 x1
  let x3 := pmadd cfg.fma (d 169 5) shift cfg.ks.S_NP3 x2
  (fmul (d 169 6) x3 cfg.ks.S_4PI, shift)

/-- The reduced argument of R170 from the clamped input and `m`: one fused multiply-add, or two subtractions. -/
def expRemainder (cfg : Cfg) (d : Draws32) (x m : W32) : W32 :=
  if cfg.fma then fma (d 170 3) m cfg.ke.E_NLN2 x
  else
    let r := fsub (d 170 4) x (fmul (d 170 4) m cfg.ke.E_C1)
    fsub (d 170 5) r (fmul (d 170 5) m cfg.ke.E_C2)

/-- The clamp of R170: `fmin` first, so that a NaN becomes `E_HI`. -/
def expClamp (cfg : Cfg) (a : W32) : W32 := fmax (fmin a cfg.ke.E_HI) cfg.ke.E_LO

/-- `m` of R170 for a clamped input. -/
def expM (cfg : Cfg) (d : Draws32) (x : W32) : W32 :=
  ffloor (d 170 2) (pmadd cfg.fma (d 170 2) x cfg.ke.E_LOG2EF C_HALF)

/-- `rr_exp` (R170): `(m, r)`. -/
def rrExp (cfg : Cfg) (d : Draws32) (a : W32) : W32 × W32 :=
  let x := expClamp cfg a
  let m := expM cfg d x
  (m, expRemainder cfg d x m)

/-- What `rr_log` gives in one lane (R171). -/
structure LogReduced where
  x : W32
  e : W32
  inv : W32
  isz : W32
deriving DecidableEq, Repr

/-- The clamp of R171: NaN, negative, zero and subnormal inputs all become `FLT_MIN`. -/
def logClamp (a : W32) : W32 := fmax a C_FLT_MIN

/-- `rr_log` (R171) in one lane, from the lane's input and `expo_f` of its clamped input. -/
def rrLogLane (cfg : Cfg) (d : Draws32) (a expo : W32) : LogReduced :=
  let inv := cmpNGE a C_ZERO
  let isz := cmpEQ a C_ZERO
  let x0 := logClamp a
  let e0 := fsub (d 171 4) expo C_126
  let xm := mantHalf x0
  let msk := cmpLT xm cfg.kl.L_SQRTHF
  let tmp := vand xm msk
  let x1 := fsub (d 171 8) xm C_ONE
  let e := fsub (d 171 9) e0 (vand C_ONE msk)
  let x := fadd (d 171 10) x1 tmp
  ⟨x, e, inv, isz⟩

/-- `rr_log` (R171) in 8 lanes. -/
def rrLog (cfg : Cfg) (d : Fin 8 → Draws32) (a : Lanes32) : Fin 8 → LogReduced :=
  let expo := expoF cfg.wideShift (fun i => logClamp (a i))
  fun i => rrLogLane cfg (d i) (a i) (expo i)

/-- The parameter constraint on `KE` (R172), under the configuration's `CFG_FMA`: at both clamp bounds `m` is a number
within `[-127, 127]`. -/
def admissibleKE (cfg : Cfg) (d : Draws32) : Bool :=
  cmpGE 0x42FE0000 (expM cfg d cfg.ke.E_HI) == TRUE32 && cmpGE (expM cfg d cfg.ke.E_LO) 0xC2FE0000 == TRUE32

end Sys2Proof.Machine
end

