-- ==== Sys2Proof/Machine/Exp.lean ====
section
/-! DEFINITION. simd_exp_core (43_exp.md R230 to R237). -/

namespace Sys2Proof.Machine

/-- `exp(r)·2^m` before the last max of R231, in 8 lanes. -/
def expValue (cfg : Cfg) (d : Fin 8 → Draws32) (a : Lanes32) : Lanes32 :=
  let p := pow2F cfg.wideShift (fun i => (rrExp cfg (d i) (a i)).1)
  fun i =>
    let q := expPoly cfg (d i) (rrExp cfg (d i) (a i)).2
    fmul (d i 231 4) q (p i)

/-- The dataflow of `pexp.f32` (R231): the last max is against the unclamped input, which comes second. -/
def pexpLanes (cfg : Cfg) (d : Fin 8 → Draws32) (a : Lanes32) : Lanes32 :=
  fun i => fmax (expValue cfg d a i) (a i)

/-- The result vector of `pexp.f32` (R231). -/
def pexpVec (env : Env) (cfg : Cfg) (a : Vec) : Vec :=
  ofLanes32 (pexpLanes cfg (draws32 env .pexpF32) (lanes32 a))

/-- `pexp.f32` (R231): answer the head of `Q`. -/
def execPexpF32 (s : State) : Host.Outcome State Fault Refusal :=
  s.answer false (pexpVec Config.env s.pins.cfg)

end Sys2Proof.Machine
end

