-- ==== Sys2Proof/Machine/Log.lean ====
section
/-! DEFINITION. simd_log_core (44_log.md R250 to R254). -/

namespace Sys2Proof.Machine

/-- The recombination of R251: the polynomial, the correction and the two parts of `e·ln2`. -/
def logCombine (cfg : Cfg) (d : Draws32) (x e : W32) : W32 :=
  let p := logPoly cfg d x
  let t1 := fmul (d 251 3) e cfg.kl.L_Q1
  let t2 := fmul (d 251 4) p.2 C_HALF
  let y := fadd (d 251 5) p.1 t1
  let x := fsub (d 251 6) x t2
  let t3 := fmul (d 251 7) e cfg.kl.L_Q2
  let x := fadd (d 251 8) x y
  fadd (d 251 9) x t3

/-- The special-value injection of R251: the invalid mask is a NaN pattern, and zero lanes become `-∞`. -/
def logInject (isz inv x : W32) : W32 := vor (vandnot isz (vor x inv)) (vand isz C_MINF)

/-- The dataflow of `plog.f32` (R251) in 8 lanes. -/
def plogLanes (cfg : Cfg) (d : Fin 8 → Draws32) (a : Lanes32) : Lanes32 :=
  let red := rrLog cfg d a
  fun i => logInject (red i).isz (red i).inv (logCombine cfg (d i) (red i).x (red i).e)

/-- The result vector of `plog.f32` (R251). -/
def plogVec (env : Env) (cfg : Cfg) (a : Vec) : Vec :=
  ofLanes32 (plogLanes cfg (draws32 env .plogF32) (lanes32 a))

/-- `plog.f32` (R251): answer the head of `Q`. -/
def execPlogF32 (s : State) : Host.Outcome State Fault Refusal :=
  s.answer false (plogVec Config.env s.pins.cfg)

end Sys2Proof.Machine
end

