-- ==== Sys2Proof/Machine/Sin.lean ====
section
/-! DEFINITION. simd_sine_core (45_sin.md R270 to R275). -/

namespace Sys2Proof.Machine

/-- The dataflow of `psin.f32` (R271) in 8 lanes; both polynomials are computed in every lane (R281). -/
def psinLanes (cfg : Cfg) (d : Fin 8 → Draws32) (a : Lanes32) : Lanes32 :=
  let flip := sflip cfg.wideShift (fun i => (rrSin cfg (d i) (a i)).2)
  fun i =>
    let z := (rrSin cfg (d i) (a i)).1
    let ival := cmpGT z C_ONE
    let right := sinEven cfg (d i) z
    let left := sinOdd cfg (d i) z
    let res := vor (vandnot ival left) (vand ival right)
    vxor res (flip i)

/-- The result vector of `psin.f32` (R271). -/
def psinVec (env : Env) (cfg : Cfg) (a : Vec) : Vec :=
  ofLanes32 (psinLanes cfg (draws32 env .psinF32) (lanes32 a))

/-- `psin.f32` (R271): answer the head of `Q`. -/
def execPsinF32 (s : State) : Host.Outcome State Fault Refusal :=
  s.answer false (psinVec Config.env s.pins.cfg)

end Sys2Proof.Machine
end

