-- ==== Sys2Proof/Machine/SqrtRsqrt.lean ====
section
/-! DEFINITION. simd_sqrt_rsqrt_core (42_sqrt_rsqrt.md R200 to R216). -/

namespace Sys2Proof.Machine

/-- `nr_step` (R202), one Newton-Raphson step. -/
def nrStep (fused : Bool) (d : Draws32) (a e : W32) : W32 :=
  let h := fmul (d 202 1) a C_MHALF
  let t := fmul (d 202 2) e e
  let u := pmadd fused (d 202 3) h t C_THREEHALF
  fmul (d 202 4) e u

/-- `EST_REF` on positive normal inputs (R203): `1/√a` with two roundings. -/
def estRef (d : Draw32) (a : W32) : W32 := fdiv d C_ONE (fsqrt d a)

/-- The first row of the contract (R203): `e` is a positive normal with `|e·√a − 1| ≤ 1.5·2^-12`, that is
`8189² ≤ e²·a·2^26 ≤ 8195²`. -/
def estWithin (a e : W32) : Bool :=
  match datum32 a, datum32 e with
  | .fin false n g, .fin false m h =>
    let p := m * m * n
    let k := 2 * h + g + 26
    decide (2 ^ 23 ≤ m) && decide (8189 ^ 2 * 2 ^ (-k).toNat ≤ p * 2 ^ k.toNat) &&
      decide (p * 2 ^ k.toNat ≤ 8195 ^ 2 * 2 ^ (-k).toNat)
  | _, _ => false

/-- `RSQRT_EST` (R203) for raw bits `est`: the contract's rows for special inputs, and for a positive normal input the
raw bits where they meet the contract and `EST_REF` where they do not. So every admissible estimate is one of these,
and each of these is admissible (log 6). -/
def rsqrtEst (est : W32 → W32) (d : Draw32) (a : W32) : W32 :=
  match datum32 a with
  | .nan => bitsOfNaN32 (d .rsqrtEst [a])
  | .inf s => if s then bitsOfNaN32 (d .rsqrtEst [a]) else C_ZERO
  | .fin s n _ =>
    if n < 2 ^ 23 then (if s then C_MINF else C_PINF)
    else if s then bitsOfNaN32 (d .rsqrtEst [a])
    else if estWithin a (est a) then est a
    else estRef d a

/-- One lane of `psqrt.f32` in approximate mode (R204). -/
def psqrtApprox (est : W32 → W32) (cfg : Cfg) (d : Draws32) (a : W32) : W32 :=
  let e := rsqrtEst est (d 204 1) a
  let e2 := nrStep cfg.fma d a e
  let s := fmul (d 204 3) a e2
  let s := if cfg.psqrtRawMax then fmax s a else s
  let tiny := vand (cmpGE a C_ZERO) (cmpGE C_FLT_MIN a)
  vandnot tiny s

/-- One lane of `prsqrt.f32` in approximate mode (R206). -/
def prsqrtApprox (est : W32 → W32) (cfg : Cfg) (d : Draws32) (a : W32) : W32 :=
  let ltmin := cmpLT a C_FLT_MIN
  let e := vandnot ltmin (rsqrtEst est (d 206 2) a)
  let neg := cmpLT a C_ZERO
  let zs := vandnot neg ltmin
  let special := vor (vand neg C_QNAN) (vand zs C_PINF)
  let r := nrStep cfg.fma d a e
  vor r special

/-- One lane of `psqrt.f32` in exact mode (R209). -/
def psqrtExact (d : Draws32) (a : W32) : W32 := fsqrt (d 209 1) a

/-- One lane of `prsqrt.f32` in exact mode (R210), two roundings. -/
def prsqrtExact (d : Draws32) (a : W32) : W32 := fdiv (d 210 1) C_ONE (fsqrt (d 210 1) a)

/-- One lane of `psqrt.f64` (R215). -/
def psqrt64 (d : Draws64) (a : W64) : W64 := fsqrt64 (d 215 1) a

/-- One lane of `prsqrt.f64` (R216), two roundings. -/
def prsqrt64 (d : Draws64) (a : W64) : W64 := fdiv64 (d 216 1) C_ONE64 (fsqrt64 (d 216 1) a)

/-- The dataflow of `psqrt.f32`: `CFG_SQRT32_APPROX` selects the mode (R200, R201). -/
def psqrtLanes (est : W32 → W32) (cfg : Cfg) (d : Fin 8 → Draws32) (a : Lanes32) : Lanes32 :=
  fun i => if cfg.sqrt32Approx then psqrtApprox est cfg (d i) (a i) else psqrtExact (d i) (a i)

/-- The dataflow of `prsqrt.f32`: `CFG_RSQRT32_APPROX` selects the mode (R200, R201). -/
def prsqrtLanes (est : W32 → W32) (cfg : Cfg) (d : Fin 8 → Draws32) (a : Lanes32) : Lanes32 :=
  fun i => if cfg.rsqrt32Approx then prsqrtApprox est cfg (d i) (a i) else prsqrtExact (d i) (a i)

/-- The result vector of `psqrt.f32` (R200). -/
def psqrt32Vec (env : Env) (cfg : Cfg) (a : Vec) : Vec :=
  ofLanes32 (psqrtLanes env.est cfg (draws32 env .psqrtF32) (lanes32 a))

/-- The result vector of `prsqrt.f32` (R200). -/
def prsqrt32Vec (env : Env) (cfg : Cfg) (a : Vec) : Vec :=
  ofLanes32 (prsqrtLanes env.est cfg (draws32 env .prsqrtF32) (lanes32 a))

/-- The result vector of `psqrt.f64` (R215); no configuration is read (R212). -/
def psqrt64Vec (env : Env) (a : Vec) : Vec :=
  ofLanes64 (fun i => psqrt64 (draws64 env .psqrtF64 i) (lanes64 a i))

/-- The result vector of `prsqrt.f64` (R216); no configuration is read (R212). -/
def prsqrt64Vec (env : Env) (a : Vec) : Vec :=
  ofLanes64 (fun i => prsqrt64 (draws64 env .prsqrtF64 i) (lanes64 a i))

/-- `psqrt.f32` (R200, R204, R209): answer the head of `Q`. -/
def execPsqrtF32 (s : State) : Host.Outcome State Fault Refusal :=
  s.answer false (psqrt32Vec Config.env s.pins.cfg)

/-- `prsqrt.f32` (R200, R206, R210): answer the head of `Q`. -/
def execPrsqrtF32 (s : State) : Host.Outcome State Fault Refusal :=
  s.answer false (prsqrt32Vec Config.env s.pins.cfg)

/-- `psqrt.f64` (R215): answer the head of `Q`. -/
def execPsqrtF64 (s : State) : Host.Outcome State Fault Refusal :=
  s.answer false (psqrt64Vec Config.env)

/-- `prsqrt.f64` (R216): answer the head of `Q`. -/
def execPrsqrtF64 (s : State) : Host.Outcome State Fault Refusal :=
  s.answer false (prsqrt64Vec Config.env)

end Sys2Proof.Machine
end

