-- ==== Sys2Proof/Machine/Dispatch.lean ====
section
/-! DEFINITION. One arm per operation (10_state.md R31). -/

namespace Sys2Proof.Machine

/-- The meaning of each operation. -/
def exec (i : Instr) (s : State) : Host.Outcome State Fault Refusal :=
  match i with
  | .psinF32 => Sys2Proof.Machine.execPsinF32 s
  | .plogF32 => Sys2Proof.Machine.execPlogF32 s
  | .pexpF32 => Sys2Proof.Machine.execPexpF32 s
  | .psqrtF32 => Sys2Proof.Machine.execPsqrtF32 s
  | .prsqrtF32 => Sys2Proof.Machine.execPrsqrtF32 s
  | .psqrtF64 => Sys2Proof.Machine.execPsqrtF64 s
  | .prsqrtF64 => Sys2Proof.Machine.execPrsqrtF64 s

end Sys2Proof.Machine
end

