-- ==== Sys2Proof/Machine/Step.lean ====
section
/-! DEFINITION. One step: one clock cycle (10_state.md R20, R29). -/

namespace Sys2Proof.Machine

/-- One rising edge of `clk`, and then, where the head of `Q` is due, its answer: the operation its word names (R31), or the
illegal-operation response (R302). -/
def step (s : State) : Host.Outcome State Fault Refusal :=
  match fetch (clockEdge s) with
  | none => .next (clockEdge s)
  | some bytes =>
    match decode bytes with
    | .ok (i, _) => exec i (clockEdge s)
    | .error _ => illegalResponse (clockEdge s)

/-- The state with the operation word `w` as the only request in `Q`, due at once, its operand what stands on `req_a`; no
reset stands, no response is offered, and the requester's pins stay as they are (log 18). -/
def State.withFetchWord (s : State) (nbits w : Nat) : State :=
  { s with
    pins := { s.pins with rstN := true }
    rspValid := false
    q := [⟨tableWord nbits w, s.pins.reqA, 0, false⟩]
    script := [] }

end Sys2Proof.Machine
end

