-- ==== Sys2Proof/Machine/Value.lean ====
section
/-! DEFINITION. The numbers that patterns stand for, and what it is to be a correctly rounded result, for statements about
the lane primitives (40_lane_primitives.md R101, R114; 00_scope.md R13). No meaning uses this file. -/

namespace Sys2Proof.Machine

/-- The number a datum stands for; 0 for a NaN or an infinity, which stand for none. -/
def numberOf : Datum → ℚ
  | .fin neg n e => (signedInt neg n : ℚ) * 2 ^ e
  | _ => 0

/-- A datum is a number, not a NaN or an infinity. -/
def isFin : Datum → Bool
  | .fin _ _ _ => true
  | _ => false

/-- A binary32 pattern is a zero, a subnormal or a normal (R101). -/
def isFin32 (w : W32) : Bool := isFin (datum32 w)

/-- A binary64 pattern is a zero, a subnormal or a normal (R101). -/
def isFin64 (w : W64) : Bool := isFin (datum64 w)

/-- A binary32 pattern is `+∞` or `-∞` (R101). -/
def isInf32 (w : W32) : Bool := datum32 w == .inf false || datum32 w == .inf true

/-- A binary64 pattern is `+∞` or `-∞` (R101). -/
def isInf64 (w : W64) : Bool := datum64 w == .inf false || datum64 w == .inf true

/-- The value of a finite binary32 pattern (R101). -/
def value32 (w : W32) : ℚ := numberOf (datum32 w)

/-- The value of a finite binary64 pattern (R101). -/
def value64 (w : W64) : ℚ := numberOf (datum64 w)

/-- The place of a pattern that is no NaN on the extended line, `-∞` below and `+∞` above every number (R114). -/
noncomputable def place32 (w : W32) : EReal :=
  match datum32 w with
  | .inf neg => if neg then ⊥ else ⊤
  | d => (((numberOf d : ℚ) : ℝ) : EReal)

/-- `w` is `round32` of the real number `v` (R101, R13): the nearest finite pattern, an even one when two values are
nearest; and the infinity of its sign from `2^128 - 2^103` on. Which zero a result that rounds to zero is, the rules of the
primitives say. -/
def IsRound32 (v : ℝ) (w : W32) : Prop :=
  (|v| < 2 ^ 128 - 2 ^ 103 →
    isFin32 w = true ∧
      ∀ u : W32, isFin32 u = true →
        |(value32 w : ℝ) - v| ≤ |(value32 u : ℝ) - v| ∧
          (|(value32 w : ℝ) - v| = |(value32 u : ℝ) - v| → value32 u = value32 w ∨ w.getLsbD 0 = false)) ∧
    (2 ^ 128 - 2 ^ 103 ≤ v → datum32 w = .inf false) ∧ (v ≤ -(2 ^ 128 - 2 ^ 103) → datum32 w = .inf true)

/-- `w` is `round64` of the real number `v` (R101): as `IsRound32`, with infinities from `2^1024 - 2^970` on. -/
def IsRound64 (v : ℝ) (w : W64) : Prop :=
  (|v| < 2 ^ 1024 - 2 ^ 970 →
    isFin64 w = true ∧
      ∀ u : W64, isFin64 u = true →
        |(value64 w : ℝ) - v| ≤ |(value64 u : ℝ) - v| ∧
          (|(value64 w : ℝ) - v| = |(value64 u : ℝ) - v| → value64 u = value64 w ∨ w.getLsbD 0 = false)) ∧
    (2 ^ 1024 - 2 ^ 970 ≤ v → datum64 w = .inf false) ∧ (v ≤ -(2 ^ 1024 - 2 ^ 970) → datum64 w = .inf true)

end Sys2Proof.Machine
end

