-- ==== Sys2Proof/Machine/Function.lean ====
section
/-! DEFINITION. The operation function `F` of 10_state.md R31, for statements about the machine. The meanings do not call
it: each is written in its own family file. -/

namespace Sys2Proof.Machine

/-- The result vector of a legal operation (R31). -/
def resultOf (env : Env) (cfg : Cfg) (i : Instr) (a : Vec) : Vec :=
  match i with
  | .psinF32 => psinVec env cfg a
  | .plogF32 => plogVec env cfg a
  | .pexpF32 => pexpVec env cfg a
  | .psqrtF32 => psqrt32Vec env cfg a
  | .prsqrtF32 => prsqrt32Vec env cfg a
  | .psqrtF64 => psqrt64Vec env a
  | .prsqrtF64 => prsqrt64Vec env a

/-- `F(op, a) = (y, err)` (R31, R302). -/
def opFunction (env : Env) (cfg : Cfg) (op : OpWord) (a : Vec) : Vec × Bool :=
  match decodeWord op with
  | .ok i => (resultOf env cfg i a, false)
  | .error _ => (0, true)

end Sys2Proof.Machine
end

