-- ==== Sys2Proof/Safety.lean ====
section
/-! DEFINITION. What counts as a safe state and a safe step, in the terms the statements use. -/

namespace Sys2Proof.Machine

/-- A step that goes on: no fault, no refusal. -/
def goesOn (o : Host.Outcome State Fault Refusal) : Bool :=
  match o with
  | .next _ => true
  | .fault _ => false
  | .refused _ => false

/-- `k` steps, stopping at the first fault or refusal (`Host.Core.run` of this machine). -/
def stepMany : Nat → State → Host.Outcome State Fault Refusal
  | 0, s => .next s
  | k + 1, s =>
    match step s with
    | .next t => stepMany k t
    | .fault r => .fault r
    | .refused r => .refused r

/-- In a cycle with `rst_n` = 0, `req_ready` and `rsp_valid` are 0 (10_state.md R34, 70_reset_and_hazards.md R330). -/
def quietInReset (s : State) : Prop :=
  s.pins.rstN = false → s.reqReady = false ∧ s.rspValid = false

/-- `Q` never holds more than `QDEPTH` requests, and `req_ready` is 1 only with room (R335, R339). -/
def withinCapacity (s : State) : Prop :=
  s.q.length ≤ Config.qdepth ∧ (s.reqReady = true → s.q.length < Config.qdepth)

/-- The unit has not held `req_ready` low with room, while `rsp_ready` was given, for more cycles than its bound (R336). -/
def patienceKept (s : State) : Prop := s.held ≤ Config.patience

/-- What is offered is `F(head(Q))` (R29, R31): the error bit always, the result unless the configuration changed while
the request was in `Q` (R333). -/
def offersHead (s : State) : Prop :=
  s.rspValid = true →
    ∃ e rest, s.q = e :: rest ∧ e.wait = 0 ∧
      s.rspErr = (opFunction Config.env s.pins.cfg e.op e.a).2 ∧
      (e.spoiled = false → s.rspY = (opFunction Config.env s.pins.cfg e.op e.a).1)

/-- Out of reset, a head whose latency is over is offered (R336, log 8). -/
def offersInTime (s : State) : Prop :=
  s.pins.rstN = true → s.rspValid = false → ∀ e rest, s.q = e :: rest → 0 < e.wait

/-- The invariant of the unit. -/
structure UnitInv (s : State) : Prop where
  quiet : quietInReset s
  capacity : withinCapacity s
  patience : patienceKept s
  head : offersHead s
  inTime : offersInTime s

/-- `Q` as the spec writes it: `(op, a)` pairs (R29). -/
def requests (s : State) : List (OpWord × Vec) := s.q.map (fun e => (e.op, e.a))

/-- The pins of a cycle but for the operand. -/
def sameButOperand (p p' : Pins) : Prop := { p with reqA := 0 } = { p' with reqA := 0 }

/-- Along the run from `s` the requester breaks no offer (R334): the model's flag of a broken request stays down. -/
def keepsOffers (s : State) : Prop :=
  ∀ (k : Nat) (t : State), stepMany k s = .next t → t.reqBroken = false

/-- Two states that can differ only in operands and in what is computed from them: every pin but `req_a`, both
handshakes, the operation words in `Q` and how long each still waits are the same (R337). -/
structure SameTiming (s t : State) : Prop where
  pins : sameButOperand s.pins t.pins
  script : List.Forall₂ sameButOperand s.script t.script
  reqReady : s.reqReady = t.reqReady
  rspValid : s.rspValid = t.rspValid
  queue : s.q.map (fun e => (e.op, e.wait)) = t.q.map (fun e => (e.op, e.wait))
  broken : s.reqBroken = t.reqBroken
  held : s.held = t.held
  cycle : s.cycle = t.cycle

end Sys2Proof.Machine
end

