-- ==== Sys2Proof/Certificates/Slice0/Obligations.lean ====
section
/-! DEFINITION. The statements for the provers. OBLIGATIONS.json gives each its tier, its kind and the rules it rests on. -/

open Sys2Proof Sys2Proof.Machine

/-! ### Operation words -/

/-- Every operation is well formed, and decoding its encoding gives it back, with the bytes after it left over
(30_encoding.md R75, R78). -/
def Obligations.DecodeOfEncodeIsTheInstruction : Prop :=
  ∀ (i : Instr) (rest : List (BitVec 8)), i.wellFormed = true ∧ decode (encode i ++ rest) = .ok (i, rest)

/-- The table of R75: the seven legal words and what each names; a word is legal exactly when it is one of them, and
exactly then it decodes. -/
def Obligations.LegalWordsAreTheSeven : Prop :=
  (decodeWord 0x00 = .ok .psinF32 ∧ decodeWord 0x01 = .ok .plogF32 ∧ decodeWord 0x02 = .ok .pexpF32 ∧
    decodeWord 0x03 = .ok .psqrtF32 ∧ decodeWord 0x04 = .ok .prsqrtF32 ∧ decodeWord 0x0B = .ok .psqrtF64 ∧
    decodeWord 0x0C = .ok .prsqrtF64) ∧
  ∀ w : OpWord,
    (legal w = true ↔ w ∈ [0x00, 0x01, 0x02, 0x03, 0x04, 0x0B, 0x0C]) ∧
      ((∃ i, decodeWord w = .ok i) ↔ legal w = true)

/-- R76: a word is illegal exactly when `RSV ≠ 0`, or `FUNC` is 5, 6 or 7, or `PREC = 1` with `FUNC` 0, 1 or 2; there are 249 of
them; and an illegal word is answered with the error response. -/
def Obligations.IllegalWordsByTheirFields : Prop :=
  (∀ w : OpWord,
    legal w = false ↔
      (w.toNat / 16 ≠ 0 ∨ 5 ≤ w.toNat % 8 ∨ (w.toNat / 8 % 2 = 1 ∧ w.toNat % 8 ≤ 2))) ∧
  ((List.range 256).filter (fun n => !legal (BitVec.ofNat 8 n))).length = 249 ∧
  ∀ (env : Env) (cfg : Cfg) (w : OpWord) (a : Vec), legal w = false → opFunction env cfg w a = (0, true)

/-- Words written out bit by bit, `RSV ++ PREC ++ FUNC` (R70), decode to the operations they stand for. -/
def Obligations.WrittenOutWordsDecode : Prop :=
  decode [0b0000#4 ++ 0b0#1 ++ 0b010#3] = .ok (.pexpF32, []) ∧
    decode [0b0000#4 ++ 0b1#1 ++ 0b100#3] = .ok (.prsqrtF64, []) ∧
    decode [0b0000#4 ++ 0b1#1 ++ 0b000#3] = .error .noBinary64Form ∧
    decode [0b0000#4 ++ 0b0#1 ++ 0b101#3] = .error .reservedFunc ∧
    decode [0b0001#4 ++ 0b0#1 ++ 0b011#3] = .error .reservedBits

/-! ### Views of a vector -/

/-- R52: byte `k` of a vector is bits `8k+7 .. 8k`; a binary32 lane `i` is bytes `4i` to `4i+3` and a binary64 lane `i` bytes `8i`
to `8i+7`, least significant byte first. -/
def Obligations.LanesAreLittleEndianBytes : Prop :=
  ∀ v : Vec,
    (∀ k : Fin 32, byteOf v k = v.extractLsb' (8 * k.val) 8) ∧
      (∀ (i : Fin 8) (j : Fin 4), byteOf v (4 * i.val + j.val) = (lanes32 v i).extractLsb' (8 * j.val) 8) ∧
      ∀ (i : Fin 4) (j : Fin 8), byteOf v (8 * i.val + j.val) = (lanes64 v i).extractLsb' (8 * j.val) 8

/-! ### Reset, channels and the queue -/

/-- After reset `Q` is empty and no response is offered, in a cycle with `rst_n` = 1 (R331, R34).
That the state after reset is the first cycle with `rst_n` = 1 is the model's choice (log 3). -/
def Obligations.ResetStateHasNothingInFlight : Prop :=
  State.reset.pins.rstN = true ∧ State.reset.q = [] ∧ State.reset.rspValid = false

/-- The invariant of the unit holds at reset.
Its clauses on capacity, patience and wait are about the model's own fields (logs 8, 9). -/
def Obligations.UnitInvHoldsAtReset : Prop := UnitInv State.reset

/-- Every step keeps the invariant of the unit: quiet channels in reset, `Q` within its capacity, bounded patience, what is
offered is `F(head(Q))`, and a head whose latency is over is offered.
The wait and the patience are the model's choices (logs 8, 9). -/
def Obligations.StepKeepsUnitInv : Prop :=
  ∀ s t : State, UnitInv s → step s = .next t → UnitInv t

/-- R330: an edge with `rst_n` = 0 empties `Q`; `req_ready` and `rsp_valid` are 0 in a cycle with `rst_n` = 0; reset does not
change the configuration, which is what the requester drives; and without reset only an answered head leaves `Q`. -/
def Obligations.ResetEdgeDropsRequestsAndOnlyReset : Prop :=
  ∀ s : State, ∃ t, step s = .next t ∧
    (s.pins.rstN = false → t.q = []) ∧
    (t.pins.rstN = false → t.reqReady = false ∧ t.rspValid = false) ∧
    t.pins.cfg = (s.script.headD s.pins).cfg ∧
    (s.pins.rstN = true →
      (if s.rspValid && s.pins.rspReady then (requests s).tail else requests s) <+: requests t)

/-- `Q` is a FIFO (R29, R57, R335): taking a request appends it, taking the response removes the head, nothing else
happens to it; and an offered response is `F(head(Q))`. -/
def Obligations.QueueIsFirstInFirstOut : Prop :=
  ∀ s : State, UnitInv s → s.pins.rstN = true → s.reqBroken = false →
    ∃ t, step s = .next t ∧
      requests t =
        (if s.rspValid && s.pins.rspReady then (requests s).tail else requests s) ++
          (if s.pins.reqValid && s.reqReady then [(s.pins.reqOp, s.pins.reqA)] else []) ∧
      (t.rspValid = true → ∃ e rest, t.q = e :: rest ∧
        (e.spoiled = false → (t.rspY, t.rspErr) = opFunction Config.env t.pins.cfg e.op e.a))

/-- The response half of R334: an offered response that is not taken is offered unchanged in the next cycle, while no reset
stands and the configuration stays. -/
def Obligations.UntakenResponseStaysStable : Prop :=
  ∀ s : State, s.rspValid = true → s.pins.rspReady = false → s.pins.rstN = true →
    (s.script.headD s.pins).rstN = true → (s.script.headD s.pins).cfg = s.pins.cfg →
    ∃ t, step s = .next t ∧ t.rspValid = true ∧ t.rspY = s.rspY ∧ t.rspErr = s.rspErr

/-- The request half of R334: with `req_ready` = 0 no request is taken, so `Q` is empty after a reset edge and else what it
was, without a head whose response was taken; and a requester that holds its request has broken nothing. The flag of a
broken request is the model's (logs 10, 19). -/
def Obligations.StableRequestIsNotBroken : Prop :=
  ∀ s : State, s.reqBroken = false → s.reqReady = false →
    (s.pins.reqValid = true →
      (s.script.headD s.pins).reqValid = true ∧ (s.script.headD s.pins).reqOp = s.pins.reqOp ∧
        (s.script.headD s.pins).reqA = s.pins.reqA) →
    ∃ t, step s = .next t ∧ t.reqBroken = false ∧
      requests t =
        if s.pins.rstN then (if s.rspValid && s.pins.rspReady then (requests s).tail else requests s) else []

/-- R333: when the configuration changes, every request then in `Q` is one whose result is open; each stays in its place and
is still answered, with the error bit of R302.
That a request taken at the same edge counts as in `Q` is the model's reading (log 11). -/
def Obligations.ConfigurationChangeLeavesResultsOpen : Prop :=
  ∀ s : State, UnitInv s → s.pins.rstN = true → (s.script.headD s.pins).cfg ≠ s.pins.cfg →
    ∃ t, step s = .next t ∧ (∀ e ∈ t.q, e.spoiled = true) ∧
      (if s.rspValid && s.pins.rspReady then (requests s).tail else requests s) <+: requests t ∧
      (t.rspValid = true → ∃ e rest, t.q = e :: rest ∧ t.rspErr = !legal e.op)

/-- No step stops: the unit has no trap, and no operation can block (R305, R336). -/
def Obligations.EveryStepGoesOn : Prop := ∀ s : State, goesOn (step s) = true

/-- When the clock edge leaves a head of `Q` that is due, out of reset and with nothing offered, and its byte decodes to an
operation, the step is that operation's meaning at the state after the edge.
That a due head is answered in that cycle is the model's choice (log 8). -/
def Obligations.StepRunsTheDecodedOperation : Prop :=
  ∀ (s : State) (e : Entry) (rest : List Entry) (i : Instr),
    (clockEdge s).q = e :: rest → (clockEdge s).pins.rstN = true → (clockEdge s).rspValid = false → e.wait = 0 →
    decode [e.op] = .ok (i, []) → i.wellFormed = true ∧ step s = exec i (clockEdge s)

/-- R302: a due head with an illegal word gets the response `(0^256, 1)`, whatever its operand, and nothing else changes.
(A request that a change of configuration touched falls under R333.)
The cycle is the model's choice (log 8), and so is the exception (log 11). -/
def Obligations.IllegalWordGetsErrorResponse : Prop :=
  ∀ (s : State) (e : Entry) (rest : List Entry),
    (clockEdge s).q = e :: rest → (clockEdge s).pins.rstN = true → (clockEdge s).rspValid = false → e.wait = 0 →
    e.spoiled = false → legal e.op = false →
    step s = .next { clockEdge s with rspValid := true, rspY := 0, rspErr := true }

/-- R303: legality is decided from the word alone, and a legal word never gives `rsp_err` = 1, whatever the operand. -/
def Obligations.LegalWordNeverSetsError : Prop :=
  (∀ (env : Env) (cfg : Cfg) (op : OpWord) (a : Vec), (opFunction env cfg op a).2 = !legal op) ∧
    ∀ (i : Instr) (s t : State), exec i s = .next t → t.rspErr = false

/-- R336, first half: the head of `Q` is offered within as many cycles as its latency still has to run, while no reset
stands.
The bound is the model's (log 8). -/
def Obligations.HeadIsOfferedWithinItsWait : Prop :=
  ∀ (s : State) (e : Entry) (rest : List Entry), UnitInv s → s.q = e :: rest → s.pins.rstN = true →
    (∀ p ∈ s.script, p.rstN = true) →
    ∃ (k : Nat) (t : State), k ≤ e.wait ∧ stepMany k s = .next t ∧ t.rspValid = true ∧
      (requests t).head? = some (e.op, e.a)

/-- R336, second half: from a state of the invariant, while `rst_n` and `rsp_ready` stay 1 and the requester breaks no offer
(whatever else its pins do, log 2), the unit is ready for a request within the head's wait, two cycles and its patience.
The bound and the flag of a broken request are the model's (logs 8, 9, 10). -/
def Obligations.UnitIsReadyWithinBound : Prop :=
  ∀ s : State, UnitInv s → s.pins.rstN = true → s.pins.rspReady = true →
    (∀ p ∈ s.script, p.rstN = true ∧ p.rspReady = true) → keepsOffers s →
    ∃ (k : Nat) (t : State),
      k ≤ ((s.q.head?.map Entry.wait).getD 0) + Config.patience + 2 ∧
        stepMany k s = .next t ∧ t.reqReady = true

/-- R337: two units that differ only in operands take and answer in the same cycles. (Whether a requester holds its operand
stable is the requester's timing, so it is the same in both.) R337 speaks of the cycles from taking a request to offering
its response; that `req_ready` and the taking of a broken request do not depend on an operand either is the model's choice
(logs 8, 9, 10, 19). -/
def Obligations.TimingIsIndependentOfOperands : Prop :=
  ∀ s t : State, SameTiming s t →
    holdsRequest s.pins (nextPins s) = holdsRequest t.pins (nextPins t) →
    ∃ s' t', step s = .next s' ∧ step t = .next t' ∧ SameTiming s' t'

/-! ### The operations: result, completion and frame -/

/-- `psin.f32` (R271) answers the head of `Q`: each lane by the rule's lines, `rsp_err` = 0, and nothing but the response
changes. -/
def Obligations.PsinAnswersTheHead : Prop :=
  ∀ (s : State) (e : Entry) (rest : List Entry), s.q = e :: rest →
    ∃ y, exec .psinF32 s = .next { s with rspValid := true, rspY := y, rspErr := false } ∧
      (e.spoiled = false → ∀ k : Fin 8,
        let d := Config.env.nan32 .psinF32 k.val
        let zs := rrSin s.pins.cfg d (lanes32 e.a k)
        let flip := shl (vand (cvttF2I zs.2) 1) 31
        let ival := cmpGT zs.1 C_ONE
        lanes32 y k = vxor (select ival (sinEven s.pins.cfg d zs.1) (sinOdd s.pins.cfg d zs.1)) flip)

/-- `plog.f32` (R251, with the exponent of R128 and the reduction of R171) answers the head of `Q`. -/
def Obligations.PlogAnswersTheHead : Prop :=
  ∀ (s : State) (e : Entry) (rest : List Entry), s.q = e :: rest →
    ∃ y, exec .plogF32 s = .next { s with rspValid := true, rspY := y, rspErr := false } ∧
      (e.spoiled = false → ∀ k : Fin 8,
        let d := Config.env.nan32 .plogF32 k.val
        let a := lanes32 e.a k
        let red := rrLogLane s.pins.cfg d a (cvtI2F (shr (fmax a C_FLT_MIN) 23))
        let p := logPoly s.pins.cfg d red.x
        let t1 := fmul (d 251 3) red.e s.pins.cfg.kl.L_Q1
        let t2 := fmul (d 251 4) p.2 C_HALF
        let y1 := fadd (d 251 5) p.1 t1
        let x1 := fsub (d 251 6) red.x t2
        let t3 := fmul (d 251 7) red.e s.pins.cfg.kl.L_Q2
        let x2 := fadd (d 251 8) x1 y1
        let x3 := fadd (d 251 9) x2 t3
        lanes32 y k = vor (vandnot red.isz (vor x3 red.inv)) (vand red.isz C_MINF))

/-- `pexp.f32` (R231, with `2^m` of R129) answers the head of `Q`. -/
def Obligations.PexpAnswersTheHead : Prop :=
  ∀ (s : State) (e : Entry) (rest : List Entry), s.q = e :: rest →
    ∃ y, exec .pexpF32 s = .next { s with rspValid := true, rspY := y, rspErr := false } ∧
      (e.spoiled = false → ∀ k : Fin 8,
        let d := Config.env.nan32 .pexpF32 k.val
        let a := lanes32 e.a k
        let mr := rrExp s.pins.cfg d a
        let q := expPoly s.pins.cfg d mr.2
        let p := shl (iadd (cvttF2I mr.1) 127) 23
        lanes32 y k = fmax (fmul (d 231 4) q p) a)

/-- `psqrt.f32` (R200) answers the head of `Q`: approximate (R204) or exact (R209) as `CFG_SQRT32_APPROX` says. -/
def Obligations.PsqrtF32AnswersTheHead : Prop :=
  ∀ (s : State) (e : Entry) (rest : List Entry), s.q = e :: rest →
    ∃ y, exec .psqrtF32 s = .next { s with rspValid := true, rspY := y, rspErr := false } ∧
      (e.spoiled = false → ∀ k : Fin 8,
        let d := Config.env.nan32 .psqrtF32 k.val
        let a := lanes32 e.a k
        let e2 := nrStep s.pins.cfg.fma d a (rsqrtEst Config.env.est (d 204 1) a)
        let v := fmul (d 204 3) a e2
        let tiny := vand (cmpGE a C_ZERO) (cmpGE C_FLT_MIN a)
        (s.pins.cfg.sqrt32Approx = true → s.pins.cfg.psqrtRawMax = true →
            lanes32 y k = vandnot tiny (fmax v a)) ∧
          (s.pins.cfg.sqrt32Approx = true → s.pins.cfg.psqrtRawMax = false → lanes32 y k = vandnot tiny v) ∧
          (s.pins.cfg.sqrt32Approx = false → lanes32 y k = fsqrt (d 209 1) a))

/-- `prsqrt.f32` (R200) answers the head of `Q`: approximate (R206) or exact (R210) as `CFG_RSQRT32_APPROX` says. -/
def Obligations.PrsqrtF32AnswersTheHead : Prop :=
  ∀ (s : State) (e : Entry) (rest : List Entry), s.q = e :: rest →
    ∃ y, exec .prsqrtF32 s = .next { s with rspValid := true, rspY := y, rspErr := false } ∧
      (e.spoiled = false → ∀ k : Fin 8,
        let d := Config.env.nan32 .prsqrtF32 k.val
        let a := lanes32 e.a k
        let ltmin := cmpLT a C_FLT_MIN
        let est := vandnot ltmin (rsqrtEst Config.env.est (d 206 2) a)
        let neg := cmpLT a C_ZERO
        let zs := vandnot neg ltmin
        let special := vor (vand neg C_QNAN) (vand zs C_PINF)
        (s.pins.cfg.rsqrt32Approx = true →
            lanes32 y k = vor (nrStep s.pins.cfg.fma d a est) special) ∧
          (s.pins.cfg.rsqrt32Approx = false →
            lanes32 y k = fdiv (d 210 1) C_ONE (fsqrt (d 210 1) a)))

/-- `psqrt.f64` (R215) answers the head of `Q`: the correctly rounded root in each of 4 binary64 lanes. -/
def Obligations.PsqrtF64AnswersTheHead : Prop :=
  ∀ (s : State) (e : Entry) (rest : List Entry), s.q = e :: rest →
    ∃ y, exec .psqrtF64 s = .next { s with rspValid := true, rspY := y, rspErr := false } ∧
      (e.spoiled = false → ∀ k : Fin 4,
        lanes64 y k = fsqrt64 (Config.env.nan64 .psqrtF64 k.val 215 1) (lanes64 e.a k))

/-- `prsqrt.f64` (R216) answers the head of `Q`: one divided by the root in each of 4 binary64 lanes, two roundings. -/
def Obligations.PrsqrtF64AnswersTheHead : Prop :=
  ∀ (s : State) (e : Entry) (rest : List Entry), s.q = e :: rest →
    ∃ y, exec .prsqrtF64 s = .next { s with rspValid := true, rspY := y, rspErr := false } ∧
      (e.spoiled = false → ∀ k : Fin 4,
        let d := Config.env.nan64 .prsqrtF64 k.val
        lanes64 y k = fdiv64 (d 216 1) C_ONE64 (fsqrt64 (d 216 1) (lanes64 e.a k)))

/-- R30: a result lane depends only on the same lane of the operand and on the configuration; and a request's result on
nothing else of the state.
That this holds of NaN payloads too is the model's reading (log 5). -/
def Obligations.LanesAreIndependent : Prop :=
  (∀ (env : Env) (cfg : Cfg) (i : Instr) (a b : Vec) (k : Fin 8), i ≠ .psqrtF64 → i ≠ .prsqrtF64 →
    lanes32 a k = lanes32 b k → lanes32 (resultOf env cfg i a) k = lanes32 (resultOf env cfg i b) k) ∧
  (∀ (env : Env) (cfg : Cfg) (i : Instr) (a b : Vec) (k : Fin 4), i = .psqrtF64 ∨ i = .prsqrtF64 →
    lanes64 a k = lanes64 b k → lanes64 (resultOf env cfg i a) k = lanes64 (resultOf env cfg i b) k) ∧
  ∀ (i : Instr) (s t : State) (e : Entry) (rest rest' : List Entry), s.q = e :: rest → t.q = e :: rest' →
    e.spoiled = false → s.pins.cfg = t.pins.cfg →
    ∃ s' t', exec i s = .next s' ∧ exec i t = .next t' ∧ s'.rspY = t'.rspY

/-- R127: the wide path and the split path of a shift give the same bits, so `CFG_WIDE_SHIFT` changes no result of any
operation. -/
def Obligations.WideAndSplitShiftAgree : Prop :=
  (∀ (v : Lanes32) (n : Nat), vshl true v n = vshl false v n ∧ vshr true v n = vshr false v n) ∧
    ∀ (env : Env) (cfg : Cfg) (i : Instr) (a : Vec),
      resultOf env { cfg with wideShift := true } i a = resultOf env { cfg with wideShift := false } i a

/-- R212: no binary64 operation depends on the configuration or on `RSQRT_EST`. -/
def Obligations.Binary64IgnoresConfiguration : Prop :=
  ∀ (env env' : Env) (cfg cfg' : Cfg) (i : Instr) (a : Vec), i = .psqrtF64 ∨ i = .prsqrtF64 →
    env.nan64 = env'.nan64 → resultOf env cfg i a = resultOf env' cfg' i a

/-! ### Lane arithmetic -/

/-- `fadd` (R102) and `fsub` (R103) on binary32: NaNs, infinities, the sign of a zero sum, and one rounding.
The overflow threshold of the rounding is the model's reading of R101 (log 16). That a NaN of `fsub` is a draw of its own is the model's reading (log 15). -/
def Obligations.FaddFollowsItsRule : Prop :=
  ∀ (d : Draw32) (a b : W32),
    (isNaN32 a = true ∨ isNaN32 b = true → isNaN32 (fadd d a b) = true) ∧
    (isInf32 a = true → isInf32 b = true → a.msb ≠ b.msb → isNaN32 (fadd d a b) = true) ∧
    (isInf32 a = true → isNaN32 b = false → ¬ (isInf32 b = true ∧ a.msb ≠ b.msb) → fadd d a b = a) ∧
    (isFin32 a = true → isInf32 b = true → fadd d a b = b) ∧
    (isFin32 a = true → isFin32 b = true →
      (value32 a + value32 b = 0 → fadd d a b = if a = C_SIGN ∧ b = C_SIGN then C_SIGN else C_ZERO) ∧
        (value32 a + value32 b ≠ 0 → IsRound32 ((value32 a + value32 b : ℚ) : ℝ) (fadd d a b))) ∧
    (isNaN32 b = true → isNaN32 (fsub d a b) = true) ∧
    (isNaN32 (fsub d a b) = true ∧ isNaN32 (fadd d a (b ^^^ C_SIGN)) = true ∨
      fsub d a b = fadd d a (b ^^^ C_SIGN))

/-- `fmul` (R104) on binary32. The overflow threshold of the rounding is the model's reading of R101 (log 16). -/
def Obligations.FmulFollowsItsRule : Prop :=
  ∀ (d : Draw32) (a b : W32),
    (isNaN32 a = true ∨ isNaN32 b = true → isNaN32 (fmul d a b) = true) ∧
    (isInf32 a = true → isFin32 b = true → value32 b = 0 →
      isNaN32 (fmul d a b) = true ∧ isNaN32 (fmul d b a) = true) ∧
    (isInf32 a = true → isInf32 b = true ∨ (isFin32 b = true ∧ value32 b ≠ 0) →
      datum32 (fmul d a b) = .inf (a.msb ^^ b.msb) ∧ datum32 (fmul d b a) = .inf (a.msb ^^ b.msb)) ∧
    (isFin32 a = true → isFin32 b = true →
      IsRound32 ((value32 a * value32 b : ℚ) : ℝ) (fmul d a b) ∧
        (value32 (fmul d a b) = 0 → isFin32 (fmul d a b) = true → (fmul d a b).msb = (a.msb ^^ b.msb)))

/-- `fdiv` (R105) on binary32 and on binary64. The overflow thresholds of the two roundings are the model's reading of R101,
which writes no number for binary64 (log 16). -/
def Obligations.FdivFollowsItsRule : Prop :=
  (∀ (d : Draw32) (a b : W32),
    (isNaN32 a = true ∨ isNaN32 b = true → isNaN32 (fdiv d a b) = true) ∧
    (isInf32 a = true → isInf32 b = true → isNaN32 (fdiv d a b) = true) ∧
    (isFin32 a = true → isFin32 b = true → value32 a = 0 → value32 b = 0 → isNaN32 (fdiv d a b) = true) ∧
    (isInf32 a = true → isFin32 b = true → datum32 (fdiv d a b) = .inf (a.msb ^^ b.msb)) ∧
    (isFin32 a = true → isInf32 b = true →
      fdiv d a b = if a.msb ^^ b.msb then C_SIGN else C_ZERO) ∧
    (isFin32 a = true → isFin32 b = true → value32 a ≠ 0 → value32 b = 0 →
      datum32 (fdiv d a b) = .inf (a.msb ^^ b.msb)) ∧
    (isFin32 a = true → isFin32 b = true → value32 b ≠ 0 →
      IsRound32 ((value32 a / value32 b : ℚ) : ℝ) (fdiv d a b) ∧
        (value32 (fdiv d a b) = 0 → isFin32 (fdiv d a b) = true → (fdiv d a b).msb = (a.msb ^^ b.msb)))) ∧
  ∀ (d : Draw64) (a b : W64),
    (isNaN64 a = true ∨ isNaN64 b = true → isNaN64 (fdiv64 d a b) = true) ∧
    (isInf64 a = true → isInf64 b = true → isNaN64 (fdiv64 d a b) = true) ∧
    (isFin64 a = true → isFin64 b = true → value64 a = 0 → value64 b = 0 → isNaN64 (fdiv64 d a b) = true) ∧
    (isInf64 a = true → isFin64 b = true → datum64 (fdiv64 d a b) = .inf (a.msb ^^ b.msb)) ∧
    (isFin64 a = true → isInf64 b = true →
      fdiv64 d a b = if a.msb ^^ b.msb then 0x8000000000000000 else 0) ∧
    (isFin64 a = true → isFin64 b = true → value64 a ≠ 0 → value64 b = 0 →
      datum64 (fdiv64 d a b) = .inf (a.msb ^^ b.msb)) ∧
    (isFin64 a = true → isFin64 b = true → value64 b ≠ 0 →
      IsRound64 ((value64 a / value64 b : ℚ) : ℝ) (fdiv64 d a b) ∧
        (value64 (fdiv64 d a b) = 0 → isFin64 (fdiv64 d a b) = true → (fdiv64 d a b).msb = (a.msb ^^ b.msb)))

/-- `fma` (R106): the product is exact, and there is one rounding; and `pmadd` (R107): fused, it is that `fma`, and unfused a
rounded product and a rounded sum. The overflow threshold of the rounding is the model's reading of R101 (log 16). The
sign of a nonzero sum that rounds to zero is not claimed (log 13). -/
def Obligations.FmaFollowsItsRule : Prop :=
  ∀ (d : Draw32) (a b c : W32),
    (isNaN32 a = true ∨ isNaN32 b = true ∨ isNaN32 c = true → isNaN32 (fma d a b c) = true) ∧
    (isInf32 a = true → isFin32 b = true → value32 b = 0 →
      isNaN32 (fma d a b c) = true ∧ isNaN32 (fma d b a c) = true) ∧
    (isInf32 a = true → isInf32 b = true ∨ (isFin32 b = true ∧ value32 b ≠ 0) → isInf32 c = true →
      c.msb ≠ (a.msb ^^ b.msb) → isNaN32 (fma d a b c) = true ∧ isNaN32 (fma d b a c) = true) ∧
    (isInf32 a = true → isInf32 b = true ∨ (isFin32 b = true ∧ value32 b ≠ 0) → isNaN32 c = false →
      ¬ (isInf32 c = true ∧ c.msb ≠ (a.msb ^^ b.msb)) →
      datum32 (fma d a b c) = .inf (a.msb ^^ b.msb) ∧ datum32 (fma d b a c) = .inf (a.msb ^^ b.msb)) ∧
    (isFin32 a = true → isFin32 b = true → isInf32 c = true → fma d a b c = c) ∧
    (isFin32 a = true → isFin32 b = true → isFin32 c = true →
      (value32 a * value32 b + value32 c = 0 →
        fma d a b c =
          if value32 a * value32 b = 0 ∧ c = C_SIGN ∧ (a.msb ^^ b.msb) = true then C_SIGN else C_ZERO) ∧
      (value32 a * value32 b + value32 c ≠ 0 →
        IsRound32 ((value32 a * value32 b + value32 c : ℚ) : ℝ) (fma d a b c))) ∧
    pmadd true d a b c = fma d a b c ∧ pmadd false d a b c = fadd d (fmul d a b) c

/-- R108, `fsqrt` on binary32 and on binary64: correctly rounded. (The overflow thresholds inside the roundings are log 16's
reading; no root reaches them.) -/
def Obligations.FsqrtFollowsItsRule : Prop :=
  (∀ (d : Draw32) (a : W32),
    (isNaN32 a = true → isNaN32 (fsqrt d a) = true) ∧
    (a = C_ZERO ∨ a = C_SIGN → fsqrt d a = a) ∧
    (a.msb = true → a ≠ C_SIGN → isNaN32 (fsqrt d a) = true) ∧
    (a = C_PINF → fsqrt d a = C_PINF) ∧
    (isFin32 a = true → a.msb = false → IsRound32 (Real.sqrt ((value32 a : ℚ) : ℝ)) (fsqrt d a))) ∧
  ∀ (d : Draw64) (a : W64),
    (isNaN64 a = true → isNaN64 (fsqrt64 d a) = true) ∧
    (a = 0 ∨ a = 0x8000000000000000 → fsqrt64 d a = a) ∧
    (a.msb = true → a ≠ 0x8000000000000000 → isNaN64 (fsqrt64 d a) = true) ∧
    (a = 0x7FF0000000000000 → fsqrt64 d a = 0x7FF0000000000000) ∧
    (isFin64 a = true → a.msb = false → IsRound64 (Real.sqrt ((value64 a : ℚ) : ℝ)) (fsqrt64 d a))

/-- R113, `ffloor`: the greatest integer below, exactly, with `+0` for 0; an operand of magnitude `2^23` or more is returned
unchanged. -/
def Obligations.FfloorFollowsItsRule : Prop :=
  ∀ (d : Draw32) (a : W32),
    (isNaN32 a = true → isNaN32 (ffloor d a) = true) ∧
    (isInf32 a = true ∨ a = C_ZERO ∨ a = C_SIGN → ffloor d a = a) ∧
    (isFin32 a = true → isFin32 (ffloor d a) = true ∧ value32 (ffloor d a) = (⌊value32 a⌋ : ℚ)) ∧
    (isFin32 a = true → value32 a ≠ 0 → ⌊value32 a⌋ = 0 → ffloor d a = C_ZERO) ∧
    (isFin32 a = true → 2 ^ 23 ≤ |value32 a| → ffloor d a = a)

/-! ### compare_mask_select and ieee754_bit_manipulator -/

/-- R114: the five comparisons are by value, ordered but for `cmp_NGE_UQ`, and give canonical masks. -/
def Obligations.ComparisonsAreByValue : Prop :=
  ∀ a b : W32,
    (cmpGT a b = TRUE32 ↔ isNaN32 a = false ∧ isNaN32 b = false ∧ place32 b < place32 a) ∧
    (cmpGE a b = TRUE32 ↔ isNaN32 a = false ∧ isNaN32 b = false ∧ place32 b ≤ place32 a) ∧
    (cmpLT a b = TRUE32 ↔ isNaN32 a = false ∧ isNaN32 b = false ∧ place32 a < place32 b) ∧
    (cmpNGE a b = TRUE32 ↔ isNaN32 a = true ∨ isNaN32 b = true ∨ place32 a < place32 b) ∧
    (cmpEQ a b = TRUE32 ↔ isNaN32 a = false ∧ isNaN32 b = false ∧ place32 a = place32 b) ∧
    ∀ m ∈ [cmpGT a b, cmpGE a b, cmpLT a b, cmpNGE a b, cmpEQ a b], m = TRUE32 ∨ m = FALSE32

/-- R111 and R112: `fmax` and `fmin` choose an operand bit for bit, the second one when an operand is a NaN or neither is
greater. -/
def Obligations.MaxAndMinChooseByOrder : Prop :=
  ∀ a b : W32,
    (isNaN32 a = false → isNaN32 b = false → place32 b < place32 a → fmax a b = a) ∧
    (isNaN32 a = true ∨ isNaN32 b = true ∨ place32 a ≤ place32 b → fmax a b = b) ∧
    (isNaN32 a = false → isNaN32 b = false → place32 a < place32 b → fmin a b = a) ∧
    (isNaN32 a = true ∨ isNaN32 b = true ∨ place32 b ≤ place32 a → fmin a b = b)

/-- The bitwise operations (R116), with the first operand of `vandnot` inverted; and `select` (R117), which is built from
them and by which a mask chooses one operand. -/
def Obligations.SelectChoosesByMask : Prop :=
  ∀ m a b : W32,
    vand a b = a &&& b ∧ vor a b = a ||| b ∧ vxor a b = a ^^^ b ∧ vandnot m a = ~~~m &&& a ∧
      select m a b = (m &&& a) ||| (~~~m &&& b) ∧
      (m = TRUE32 → select m a b = a) ∧ (m = FALSE32 → select m a b = b)

/-- `cvtt_f2i` (R119): truncation toward zero; NaN, infinities and values out of range give `0x80000000`. -/
def Obligations.ConversionTruncates : Prop :=
  ∀ a : W32,
    (isFin32 a = false → cvttF2I a = 0x80000000) ∧
    (isFin32 a = true →
      let t : ℤ := if 0 ≤ value32 a then ⌊value32 a⌋ else ⌈value32 a⌉
      (-2 ^ 31 ≤ t → t ≤ 2 ^ 31 - 1 → (cvttF2I a).toInt = t) ∧
        (t < -2 ^ 31 ∨ 2 ^ 31 - 1 < t → cvttF2I a = 0x80000000))

/-- `expo_f` (R128): the biased exponent of a pattern with sign bit 0, exactly, as a number from 0 to 255. -/
def Obligations.ExponentExtractionIsExact : Prop :=
  ∀ (wide : Bool) (x : Lanes32) (i : Fin 8), (x i).msb = false →
    isFin32 (expoF wide x i) = true ∧
      value32 (expoF wide x i) = (((x i).extractLsb' 23 8).toNat : ℚ)

/-- `pow2_f` (R129): `2^m` for an integer `m` from -126 to 127, `+0` for -127 and `+∞` for 128. -/
def Obligations.ExponentInjectionBuildsPowers : Prop :=
  ∀ (wide : Bool) (x : Lanes32) (i : Fin 8) (m : ℤ), isFin32 (x i) = true → value32 (x i) = (m : ℚ) →
    (-126 ≤ m → m ≤ 127 → isFin32 (pow2F wide x i) = true ∧ value32 (pow2F wide x i) = 2 ^ m) ∧
      (m = -127 → pow2F wide x i = C_ZERO) ∧ (m = 128 → pow2F wide x i = C_PINF)

/-- R130: the sign-flip mask is the sign bit exactly when the truncated integer is odd, and 0 for a NaN, an infinity or a
value out of the 32-bit range. -/
def Obligations.SignFlipIsParity : Prop :=
  ∀ (wide : Bool) (x : Lanes32) (i : Fin 8),
    (isFin32 (x i) = false → sflip wide x i = 0) ∧
    (isFin32 (x i) = true →
      let t : ℤ := if 0 ≤ value32 (x i) then ⌊value32 (x i)⌋ else ⌈value32 (x i)⌉
      (t < -2 ^ 31 ∨ 2 ^ 31 - 1 < t → sflip wide x i = 0) ∧
        (-2 ^ 31 ≤ t → t ≤ 2 ^ 31 - 1 → sflip wide x i = if t % 2 = 1 then 0x80000000 else 0))

/-- R131: `mant_half` keeps the sign and the fraction and sets the exponent field to 126; with sign bit 0 the value is in
`[0.5, 1)`. -/
def Obligations.MantissaIsNormalised : Prop :=
  ∀ x : W32,
    (mantHalf x).msb = x.msb ∧ (mantHalf x).extractLsb' 0 23 = x.extractLsb' 0 23 ∧
      (mantHalf x).extractLsb' 23 8 = 126 ∧
      (x.msb = false →
        isFin32 (mantHalf x) = true ∧ 1 / 2 ≤ value32 (mantHalf x) ∧ value32 (mantHalf x) < 1)

/-! ### Sub-blocks and special lanes -/

/-- The sub-blocks line by line, each line one primitive on what the lines before it gave: `exp_poly` (R165), `sin_odd` (R166),
`sin_even` (R167), `log_poly` (R168), `rr_sin` (R169), `rr_exp` (R170), `rr_log` (R171, from `expo_f` of the clamped
operand) and `nr_step` (R202), for every table. The Horner lines are as many as the table has coefficients (log 17). On
what a NaN draw depends is the model's reading (log 5), and the draw of an `fsub` is its own (log 15). -/
def Obligations.SubBlocksFollowTheirLines : Prop :=
  ∀ (cfg : Cfg) (d : Draws32) (a e : W32),
    (let r2 := fmul (d 165 1) a a
     let y := cfg.ke.E_PS.zipIdx.foldl (fun y p => pmadd cfg.fma (d 165 (4 + p.2)) y a p.1) cfg.ke.E_P0
     expPoly cfg d a = fadd (d 165 3) (pmadd cfg.fma (d 165 2) y r2 a) C_ONE) ∧
    (let z2 := fmul (d 166 1) a a
     let l2 := pmadd cfg.fma (d 166 2) cfg.ks.S_L7 z2 cfg.ks.S_L5
     let l3 := pmadd cfg.fma (d 166 3) l2 z2 cfg.ks.S_L3
     let l4 := pmadd cfg.fma (d 166 4) l3 z2 cfg.ks.S_L1
     sinOdd cfg d a = fmul (d 166 5) l4 a) ∧
    (let w := fsub (d 167 1) a C_TWO
     let w2 := fmul (d 167 2) w w
     let r3 := pmadd cfg.fma (d 167 3) cfg.ks.S_R6 w2 cfg.ks.S_R4
     let r4 := pmadd cfg.fma (d 167 4) r3 w2 cfg.ks.S_R2
     sinEven cfg d a = pmadd cfg.fma (d 167 5) r4 w2 cfg.ks.S_R0) ∧
    (let x2 := fmul (d 168 1) a a
     let x3 := fmul (d 168 2) x2 a
     let ya := pmadd cfg.fma (d 168 6) (pmadd cfg.fma (d 168 3) cfg.kl.L_P0 a cfg.kl.L_P1) a cfg.kl.L_P2
     let yb := pmadd cfg.fma (d 168 7) (pmadd cfg.fma (d 168 4) cfg.kl.L_P3 a cfg.kl.L_P4) a cfg.kl.L_P5
     let yc := pmadd cfg.fma (d 168 8) (pmadd cfg.fma (d 168 5) cfg.kl.L_P6 a cfg.kl.L_P7) a cfg.kl.L_P8
     let y := pmadd cfg.fma (d 168 10) (pmadd cfg.fma (d 168 9) ya x3 yb) x3 yc
     logPoly cfg d a = (fmul (d 168 11) y x3, x2)) ∧
    (let z0 := fmul (d 169 1) a cfg.ks.S_1PI
     let shift := ffloor (d 169 2) (fadd (d 169 2) z0 C_QUARTER)
     let x1 := pmadd cfg.fma (d 169 3) shift cfg.ks.S_NP1 a
     let x2 := pmadd cfg.fma (d 169 4) shift cfg.ks.S_NP2 x1
     let x3 := pmadd cfg.fma (d 169 5) shift cfg.ks.S_NP3 x2
     rrSin cfg d a = (fmul (d 169 6) x3 cfg.ks.S_4PI, shift)) ∧
    (let x := fmax (fmin a cfg.ke.E_HI) cfg.ke.E_LO
     let m := ffloor (d 170 2) (pmadd cfg.fma (d 170 2) x cfg.ke.E_LOG2EF C_HALF)
     (cfg.fma = true → rrExp cfg d a = (m, fma (d 170 3) m cfg.ke.E_NLN2 x)) ∧
       (cfg.fma = false →
         let r := fsub (d 170 4) x (fmul (d 170 4) m cfg.ke.E_C1)
         rrExp cfg d a = (m, fsub (d 170 5) r (fmul (d 170 5) m cfg.ke.E_C2)))) ∧
    (let x0 := fmax a C_FLT_MIN
     let e0 := fsub (d 171 4) e C_126
     let xm := vor (vand x0 0x807FFFFF) 0x3F000000
     let msk := cmpLT xm cfg.kl.L_SQRTHF
     let x1 := fsub (d 171 8) xm C_ONE
     let red := rrLogLane cfg d a e
     red.x = fadd (d 171 10) x1 (vand xm msk) ∧ red.e = fsub (d 171 9) e0 (vand C_ONE msk) ∧
       red.inv = cmpNGE a C_ZERO ∧ red.isz = cmpEQ a C_ZERO) ∧
    ∀ fused : Bool,
      let u := pmadd fused (d 202 3) (fmul (d 202 1) a C_MHALF) (fmul (d 202 2) e e) C_THREEHALF
      nrStep fused d a e = fmul (d 202 4) e u

/-- `sin_odd` is odd bit for bit (R166), wherever its result is no NaN draw. -/
def Obligations.SinOddIsOdd : Prop :=
  ∀ (cfg : Cfg) (d : Draws32) (z : W32), isNaN32 (sinOdd cfg d z) = false →
    sinOdd cfg d (z ^^^ C_SIGN) = sinOdd cfg d z ^^^ C_SIGN

/-- The derived properties of `rr_log` (R171), for every table `KL`: the clamped input is a positive number of at least
`FLT_MIN` or `+∞`; the exponent is an integer from -126 to 129; the reduced argument is `xm - 1` or `2·xm - 1` exactly. -/
def Obligations.LogReductionIsExact : Prop :=
  ∀ (cfg : Cfg) (d : Draws32) (a : W32),
    let x0 := logClamp a
    let xm := mantHalf x0
    let red := rrLogLane cfg d a (cvtI2F (shr x0 23))
    let low := cmpLT xm cfg.kl.L_SQRTHF
    isNaN32 x0 = false ∧ 0x00800000 ≤ x0.toNat ∧ x0.toNat ≤ 0x7F800000 ∧
    isFin32 red.e = true ∧ isFin32 red.x = true ∧
    (∃ k : ℤ, -126 ≤ k ∧ k ≤ 129 ∧ value32 red.e = (k : ℚ)) ∧
    (low = TRUE32 → value32 red.e = ((x0.toNat / 2 ^ 23 : Nat) : ℚ) - 127 ∧ value32 red.x = 2 * value32 xm - 1) ∧
    (low = FALSE32 → value32 red.e = ((x0.toNat / 2 ^ 23 : Nat) : ℚ) - 126 ∧ value32 red.x = value32 xm - 1)

/-- R253: `-0` is "is-zero", not "invalid", so `plog(-0)` is `-∞`; and no lane is both. -/
def Obligations.MinusZeroIsZeroNotInvalid : Prop :=
  cmpNGE C_SIGN C_ZERO = FALSE32 ∧ cmpEQ C_SIGN C_ZERO = TRUE32 ∧
    (∀ (cfg : Cfg) (d : Fin 8 → Draws32) (a : Lanes32) (i : Fin 8), a i = C_SIGN → plogLanes cfg d a i = C_MINF) ∧
    ∀ (cfg : Cfg) (d : Fin 8 → Draws32) (a : Lanes32) (i : Fin 8),
      ¬ ((rrLog cfg d a i).isz = TRUE32 ∧ (rrLog cfg d a i).inv = TRUE32)

/-- The special rows of `plog.f32` (R252), for every table `KL` and every NaN draw: a zero of either sign gives `-∞`; a
negative operand or a NaN gives the all-ones NaN. -/
def Obligations.PlogSpecialLanes : Prop :=
  ∀ (cfg : Cfg) (d : Fin 8 → Draws32) (a : Lanes32) (i : Fin 8),
    (a i = C_ZERO ∨ a i = C_SIGN → plogLanes cfg d a i = 0xFF800000) ∧
      (isNaN32 (a i) = true → plogLanes cfg d a i = 0xFFFFFFFF) ∧
      (isNaN32 (a i) = false → (a i).msb = true → a i ≠ C_SIGN → plogLanes cfg d a i = 0xFFFFFFFF)

/-- The subnormal row of `plog.f32` (R252), for every table `KL`: a positive subnormal lane gives what `FLT_MIN` gives.
On what a NaN draw depends is the model's reading (log 5). -/
def Obligations.PlogOfSubnormalIsPlogOfFltMin : Prop :=
  ∀ (cfg : Cfg) (d : Fin 8 → Draws32) (a b : Lanes32) (i : Fin 8), 0 < (a i).toNat → (a i).toNat < 0x00800000 →
    b i = C_FLT_MIN → plogLanes cfg d a i = plogLanes cfg d b i

/-- The lower bound of `pexp.f32` (R235), for every table `KE`: the result is a NaN only for a NaN operand, which comes back
unchanged, and is never below the operand. -/
def Obligations.PexpIsNeverBelowItsOperand : Prop :=
  ∀ (cfg : Cfg) (d : Fin 8 → Draws32) (a : Lanes32) (i : Fin 8),
    (isNaN32 (a i) = true → pexpLanes cfg d a i = a i) ∧
      (isNaN32 (a i) = false →
        isNaN32 (pexpLanes cfg d a i) = false ∧ place32 (a i) ≤ place32 (pexpLanes cfg d a i))

/-- Saturation of `pexp.f32` (R233), for every table `KE`: from `E_HI` on the exponential is that of `E_HI`, and the result is
the greater of it and the operand.
On what a NaN draw depends is the model's reading (log 5). -/
def Obligations.PexpSaturatesAboveItsClamp : Prop :=
  ∀ (cfg : Cfg) (d : Fin 8 → Draws32) (a b : Lanes32) (i : Fin 8),
    isNaN32 (a i) = false → isNaN32 cfg.ke.E_HI = false → place32 cfg.ke.E_HI ≤ place32 (a i) → b i = cfg.ke.E_HI →
    expValue cfg d a i = expValue cfg d b i ∧ pexpLanes cfg d a i = fmax (expValue cfg d b i) (a i)

/-- The range of `m` in `rr_exp` (R170) under the reference `KE`: an integer from -127 to 127 for every operand, NaN and
infinities included. -/
def Obligations.ExpReductionStaysInRange : Prop :=
  ∀ (cfg : Cfg) (d : Draws32) (a : W32), cfg.ke = referenceKE →
    isFin32 (rrExp cfg d a).1 = true ∧
      ∃ k : ℤ, -127 ≤ k ∧ k ≤ 127 ∧ value32 (rrExp cfg d a).1 = (k : ℚ)

/-- R172: the reference `KE` is admissible under both settings of `CFG_FMA`, and with the next pattern as `E_HI` it is not. -/
def Obligations.ReferenceExpTableIsAdmissible : Prop :=
  ∀ (fused : Bool) (d : Draws32),
    admissibleKE (referenceCfg fused true true true) d = true ∧
      admissibleKE { referenceCfg fused true true true with ke := { referenceKE with E_HI := 0x42B0C0A6 } } d = false

/-- The contract of the estimate (R203) is met for whatever raw bits; and raw bits that meet it for an operand are what the
estimate gives there.
What replaces raw bits outside the contract is the model's reading (log 6). -/
def Obligations.EstimateMeetsItsContract : Prop :=
  ∀ (est : W32 → W32) (d : Draw32) (a : W32),
    (isFin32 a = true → a.msb = false → 0x00800000 ≤ a.toNat →
      (isFin32 (rsqrtEst est d a) = true ∧ (rsqrtEst est d a).msb = false ∧ 0x00800000 ≤ (rsqrtEst est d a).toNat ∧
        |(value32 (rsqrtEst est d a) : ℝ) * Real.sqrt ((value32 a : ℚ) : ℝ) - 1| ≤ 1.5 / 2 ^ 12) ∧
      (isFin32 (est a) = true → (est a).msb = false → 0x00800000 ≤ (est a).toNat →
        |(value32 (est a) : ℝ) * Real.sqrt ((value32 a : ℚ) : ℝ) - 1| ≤ 1.5 / 2 ^ 12 →
        rsqrtEst est d a = est a)) ∧
    (a = C_PINF → rsqrtEst est d a = C_ZERO) ∧
    (a.msb = false → a.toNat < 0x00800000 → rsqrtEst est d a = C_PINF) ∧
    (a.msb = true → mag32 a < 0x00800000 → rsqrtEst est d a = C_MINF) ∧
    (a.msb = true → 0x00800000 ≤ mag32 a → isNaN32 (rsqrtEst est d a) = true) ∧
    (isNaN32 a = true → isNaN32 (rsqrtEst est d a) = true)

/-- The rows of R207 that hold for every estimate: `prsqrt.f32`, approximate mode, on special lanes. -/
def Obligations.PrsqrtApproxSpecialLanes : Prop :=
  ∀ (est : W32 → W32) (cfg : Cfg) (d : Draws32) (a : W32),
    (a = C_ZERO ∨ a = C_SIGN → prsqrtApprox est cfg d a = 0x7F800000) ∧
    (a.msb = false → a.toNat < 0x00800000 → prsqrtApprox est cfg d a = 0x7F800000) ∧
    (isFin32 a = true → a.msb = true → a ≠ C_SIGN → prsqrtApprox est cfg d a = 0x7FC00000) ∧
    (isInf32 a = true ∨ isNaN32 a = true → isNaN32 (prsqrtApprox est cfg d a) = true)

/-- The rows of R205 that hold for every estimate: `psqrt.f32`, approximate mode, on special lanes, under both settings of
`P_PSQRT_RAW_MAX`. -/
def Obligations.PsqrtApproxSpecialLanes : Prop :=
  ∀ (est : W32 → W32) (cfg : Cfg) (d : Draws32) (a : W32),
    (a = C_SIGN ∨ (a.msb = false ∧ a.toNat ≤ 0x00800000) → psqrtApprox est cfg d a = C_ZERO) ∧
    (isFin32 a = true → a.msb = true → 2 ≤ mag32 a → mag32 a < 0x00800000 →
      psqrtApprox est cfg d a = C_PINF) ∧
    (cfg.psqrtRawMax = true →
      a = 0x80000001 ∨ (a.msb = true ∧ 0x00800000 ≤ mag32 a) ∨ isNaN32 a = true ∨ a = C_PINF →
      psqrtApprox est cfg d a = a) ∧
    (cfg.psqrtRawMax = false →
      a = 0x80000001 ∨ (a.msb = true ∧ 0x00800000 ≤ mag32 a) ∨ isNaN32 a = true ∨ a = C_PINF →
      isNaN32 (psqrtApprox est cfg d a) = true)

/-- R211: the corner cases of the exact reciprocal square root, in both formats. -/
def Obligations.ExactReciprocalRootCorners : Prop :=
  (∀ (d : Draws32),
    prsqrtExact d 0 = 0x7F800000 ∧ prsqrtExact d 0x80000000 = 0xFF800000 ∧
      prsqrtExact d 0x00000001 = 0x64B504F3 ∧ prsqrtExact d 0x7F800000 = 0 ∧
      prsqrtExact d 0x3F800000 = 0x3F800000 ∧
      (∀ a : W32, a.msb = true → a ≠ 0x80000000 → isNaN32 (prsqrtExact d a) = true) ∧
      ∀ a : W32, isNaN32 a = true → isNaN32 (prsqrtExact d a) = true) ∧
  ∀ (d : Draws64),
    prsqrt64 d 0 = 0x7FF0000000000000 ∧ prsqrt64 d 0x8000000000000000 = 0xFFF0000000000000 ∧
      prsqrt64 d 0x0000000000000001 = 0x6180000000000000 ∧ prsqrt64 d 0x7FF0000000000000 = 0 ∧
      prsqrt64 d 0x3FF0000000000000 = 0x3FF0000000000000 ∧
      (∀ a : W64, a.msb = true → a ≠ 0x8000000000000000 → isNaN64 (prsqrt64 d a) = true) ∧
      ∀ a : W64, isNaN64 a = true → isNaN64 (prsqrt64 d a) = true

/-- The NaN row of `psin.f32` (R272), for every table `KS`, and its infinity rows, for the reference `KS`. -/
def Obligations.PsinOfNaNAndInfinityIsNaN : Prop :=
  ∀ (cfg : Cfg) (d : Fin 8 → Draws32) (a : Lanes32) (i : Fin 8),
    (isNaN32 (a i) = true → isNaN32 (psinLanes cfg d a i) = true) ∧
      (cfg.ks = referenceKS → isInf32 (a i) = true → isNaN32 (psinLanes cfg d a i) = true)

/-- The zero rows of `psin.f32` (R272), for the reference `KS` and both settings of `CFG_FMA`. -/
def Obligations.PsinKeepsZeros : Prop :=
  ∀ (fused : Bool) (d : Fin 8 → Draws32) (i : Fin 8),
    psinLanes (referenceCfg fused true true true) d (fun _ => C_ZERO) i = C_ZERO ∧
      psinLanes (referenceCfg fused true true true) d (fun _ => C_SIGN) i = C_SIGN
end

