-- ==== Sys2Proof/Laws/Lanes.lean ====
section
/-! SUPPORT. The lanes of a vector built from lanes, and the vector of a vector's lanes (10_state.md R22, R23). -/

namespace Sys2Proof.Machine

@[simp] theorem lanes32_ofLanes32 (f : Lanes32) : lanes32 (ofLanes32 f) = f := by
  funext i
  apply BitVec.eq_of_getLsbD_eq
  intro j hj
  fin_cases i <;> simp [lanes32, ofLanes32] <;> grind

@[simp] theorem lanes64_ofLanes64 (f : Lanes64) : lanes64 (ofLanes64 f) = f := by
  funext i
  apply BitVec.eq_of_getLsbD_eq
  intro j hj
  fin_cases i <;> simp [lanes64, ofLanes64] <;> grind

/-- Two vectors with the same binary32 lanes are the same vector. -/
theorem vec_ext_lanes32 {v w : Vec} (h : ∀ i, lanes32 v i = lanes32 w i) : v = w := by
  apply BitVec.eq_of_getLsbD_eq
  intro j hj
  have hi : j / 32 < 8 := by omega
  have := congrArg (fun x => BitVec.getLsbD x (j % 32)) (h ⟨j / 32, hi⟩)
  have hm : j % 32 < 32 := Nat.mod_lt _ (by omega)
  simpa [lanes32, hm, Nat.div_add_mod] using this

/-- Two vectors with the same binary64 lanes are the same vector. -/
theorem vec_ext_lanes64 {v w : Vec} (h : ∀ i, lanes64 v i = lanes64 w i) : v = w := by
  apply BitVec.eq_of_getLsbD_eq
  intro j hj
  have hi : j / 64 < 4 := by omega
  have := congrArg (fun x => BitVec.getLsbD x (j % 64)) (h ⟨j / 64, hi⟩)
  have hm : j % 64 < 64 := Nat.mod_lt _ (by omega)
  simpa [lanes64, hm, Nat.div_add_mod] using this

theorem ofLanes32_lanes32 (v : Vec) : ofLanes32 (lanes32 v) = v :=
  vec_ext_lanes32 (fun i => by simp)

theorem ofLanes64_lanes64 (v : Vec) : ofLanes64 (lanes64 v) = v :=
  vec_ext_lanes64 (fun i => by simp)

end Sys2Proof.Machine
end

