-- ==== Sys2Proof/Laws/State.lean ====
section
/-! SUPPORT. One lemma per field per update of the state. -/

namespace Sys2Proof.Machine

@[simp] theorem offer_pins (s : State) (y : Vec) (err : Bool) : (s.offer y err).pins = s.pins := rfl
@[simp] theorem offer_reqReady (s : State) (y : Vec) (err : Bool) : (s.offer y err).reqReady = s.reqReady := rfl
@[simp] theorem offer_rspValid (s : State) (y : Vec) (err : Bool) : (s.offer y err).rspValid = true := rfl
@[simp] theorem offer_rspY (s : State) (y : Vec) (err : Bool) : (s.offer y err).rspY = y := rfl
@[simp] theorem offer_rspErr (s : State) (y : Vec) (err : Bool) : (s.offer y err).rspErr = err := rfl
@[simp] theorem offer_q (s : State) (y : Vec) (err : Bool) : (s.offer y err).q = s.q := rfl
@[simp] theorem offer_reqBroken (s : State) (y : Vec) (err : Bool) : (s.offer y err).reqBroken = s.reqBroken := rfl
@[simp] theorem offer_held (s : State) (y : Vec) (err : Bool) : (s.offer y err).held = s.held := rfl
@[simp] theorem offer_cycle (s : State) (y : Vec) (err : Bool) : (s.offer y err).cycle = s.cycle := rfl
@[simp] theorem offer_script (s : State) (y : Vec) (err : Bool) : (s.offer y err).script = s.script := rfl

@[simp] theorem clockEdge_pins (s : State) : (clockEdge s).pins = nextPins s := rfl
@[simp] theorem clockEdge_reqReady (s : State) : (clockEdge s).reqReady = nextReqReady s := rfl
@[simp] theorem clockEdge_rspValid (s : State) : (clockEdge s).rspValid = holdsResponse s := rfl
@[simp] theorem clockEdge_rspY (s : State) : (clockEdge s).rspY = nextRspY s := rfl
@[simp] theorem clockEdge_rspErr (s : State) : (clockEdge s).rspErr = nextRspErr s := rfl
@[simp] theorem clockEdge_q (s : State) : (clockEdge s).q = nextQueue s := rfl
@[simp] theorem clockEdge_reqBroken (s : State) : (clockEdge s).reqBroken = brokenAfter s := rfl
@[simp] theorem clockEdge_held (s : State) : (clockEdge s).held = nextHeld s := rfl
@[simp] theorem clockEdge_cycle (s : State) : (clockEdge s).cycle = s.cycle + 1 := rfl
@[simp] theorem clockEdge_script (s : State) : (clockEdge s).script = s.script.tail := rfl

@[simp] theorem withFetchWord_pins (s : State) (nbits w : Nat) :
    (s.withFetchWord nbits w).pins = { s.pins with rstN := true } := rfl
@[simp] theorem withFetchWord_rspValid (s : State) (nbits w : Nat) :
    (s.withFetchWord nbits w).rspValid = false := rfl
@[simp] theorem withFetchWord_q (s : State) (nbits w : Nat) :
    (s.withFetchWord nbits w).q = [⟨tableWord nbits w, s.pins.reqA, 0, false⟩] := rfl
@[simp] theorem withFetchWord_script (s : State) (nbits w : Nat) : (s.withFetchWord nbits w).script = [] := rfl

end Sys2Proof.Machine
end

