-- ==== Sys2Proof/Laws/Ops.lean ====
section
/-! SUPPORT. What each shared operation over the state can do, said once: `answer`, the illegal-operation response, `fetch`,
and the cases of a step. -/

namespace Sys2Proof.Machine

/-- Answering gives a next state exactly when `Q` has a head, and then only the response is written. -/
theorem answer_eq_next_iff (s t : State) (err : Bool) (f : Vec → Vec) :
    s.answer err f = .next t ↔ ∃ e rest, s.q = e :: rest ∧ t = s.offer (resultFor s e f) err := by
  unfold State.answer
  cases h : s.q with
  | nil => simp
  | cons e rest =>
    constructor
    · intro ht
      exact ⟨e, rest, rfl, (Host.Outcome.next.inj ht).symm⟩
    · rintro ⟨e', rest', hq, rfl⟩
      cases hq
      rfl

/-- Answering with a head in `Q`. -/
theorem answer_cons {s : State} {e : Entry} {rest : List Entry} (hq : s.q = e :: rest) (err : Bool)
    (f : Vec → Vec) : s.answer err f = .next (s.offer (resultFor s e f) err) :=
  (answer_eq_next_iff s _ err f).2 ⟨e, rest, hq, rfl⟩

@[simp] theorem resultFor_clean {s : State} {e : Entry} (h : e.spoiled = false) (f : Vec → Vec) :
    resultFor s e f = f e.a := by
  simp [resultFor, h]

/-- The unit answers in a cycle exactly when `Q` has a head whose wait is over, out of reset, with nothing offered. -/
theorem fetch_eq_some_iff (s : State) (bytes : List (BitVec 8)) :
    fetch s = some bytes ↔
      ∃ e rest, s.q = e :: rest ∧ s.pins.rstN = true ∧ s.rspValid = false ∧ e.wait = 0 ∧ bytes = [e.op] := by
  cases h : s.q with
  | nil => simp [fetch, h]
  | cons e rest =>
    have hf : fetch s = if s.pins.rstN && !s.rspValid && e.wait == 0 then some [e.op] else none := by
      unfold fetch; rw [h]
    rw [hf]
    constructor
    · intro hb
      by_cases hc : (s.pins.rstN && !s.rspValid && e.wait == 0) = true
      · rw [if_pos hc] at hb
        simp only [Bool.and_eq_true, Bool.not_eq_true', beq_iff_eq] at hc
        exact ⟨e, rest, rfl, hc.1.1, hc.1.2, hc.2, (Option.some.inj hb).symm⟩
      · rw [if_neg hc] at hb
        cases hb
    · rintro ⟨e', rest', hq, hr, hv, hw, rfl⟩
      cases hq
      simp [hr, hv, hw]

/-- The decoder reads one byte, and nothing after it. -/
theorem decode_cons_ok {w : BitVec 8} {i : Instr} (h : decodeWord w = .ok i) (rest : List (BitVec 8)) :
    decode (w :: rest) = .ok (i, rest) := by
  simp [decode, h]

/-- A word that names no operation is refused with what stands after it. -/
theorem decode_cons_error {w : BitVec 8} {err : DecodeError} (h : decodeWord w = .error err)
    (rest : List (BitVec 8)) : decode (w :: rest) = .error err := by
  simp [decode, h]

/-- What a step does: only the clock edge; or the edge, and the answer of a legal word; or the edge, and the
illegal-operation response. -/
theorem step_cases (s : State) :
    (fetch (clockEdge s) = none ∧ step s = .next (clockEdge s)) ∨
      (∃ e rest i, (clockEdge s).q = e :: rest ∧ fetch (clockEdge s) = some [e.op] ∧ decodeWord e.op = .ok i ∧
        step s = exec i (clockEdge s)) ∨
      (∃ e rest err, (clockEdge s).q = e :: rest ∧ fetch (clockEdge s) = some [e.op] ∧ decodeWord e.op = .error err ∧
        step s = illegalResponse (clockEdge s)) := by
  cases h : fetch (clockEdge s) with
  | none => exact .inl ⟨rfl, by simp [step, h]⟩
  | some bytes =>
    obtain ⟨e, rest, hq, -, -, -, rfl⟩ := (fetch_eq_some_iff _ _).1 h
    cases hd : decodeWord e.op with
    | ok i => exact .inr (.inl ⟨e, rest, i, hq, rfl, hd, by simp [step, h, decode_cons_ok hd]⟩)
    | error err => exact .inr (.inr ⟨e, rest, err, hq, rfl, hd, by simp [step, h, decode_cons_error hd]⟩)

/-- With no change of configuration the configuration stays (R333). -/
theorem nextPins_cfg_of_not_changes {s : State} (h : cfgChanges s = false) : (nextPins s).cfg = s.pins.cfg := by
  unfold cfgChanges at h
  unfold nextPins
  cases hs : s.script with
  | nil => rfl
  | cons p ps => simpa [hs] using h

@[simp] theorem spoil_length (c : Bool) (q : List Entry) : (spoil c q).length = q.length := by simp [spoil]

@[simp] theorem spoil_nil (c : Bool) : spoil c [] = [] := rfl

@[simp] theorem spoil_cons (c : Bool) (e : Entry) (q : List Entry) :
    spoil c (e :: q) = { e with spoiled := e.spoiled || c } :: spoil c q := rfl

end Sys2Proof.Machine
end

