-- ==== Sys2Proof/Laws/Exec.lean ====
section
/-! SUPPORT. Every meaning answers the head of `Q` with its own result vector: the one lemma from which a statement about
an operation's effect on the state starts. -/

namespace Sys2Proof.Machine

/-- Each meaning is an answer without the error bit. -/
theorem exec_eq_answer (i : Instr) (s : State) :
    exec i s = s.answer false (resultOf Config.env s.pins.cfg i) := by
  cases i <;> rfl

/-- Each meaning with a head in `Q`. -/
theorem exec_cons {s : State} {e : Entry} {rest : List Entry} (hq : s.q = e :: rest) (i : Instr) :
    exec i s = .next (s.offer (resultFor s e (resultOf Config.env s.pins.cfg i)) false) := by
  rw [exec_eq_answer, answer_cons hq]

@[simp] theorem stepMany_zero (s : State) : stepMany 0 s = .next s := rfl

/-- A run of several steps begins with a step. -/
theorem stepMany_succ {s t : State} (h : step s = .next t) (k : Nat) : stepMany (k + 1) s = stepMany k t := by
  simp [stepMany, h]

/-- The lanes of a binary32 result vector, each operation in its own dataflow. -/
theorem lanes32_psinVec (env : Env) (cfg : Cfg) (a : Vec) :
    lanes32 (psinVec env cfg a) = psinLanes cfg (draws32 env .psinF32) (lanes32 a) := lanes32_ofLanes32 _

theorem lanes32_plogVec (env : Env) (cfg : Cfg) (a : Vec) :
    lanes32 (plogVec env cfg a) = plogLanes cfg (draws32 env .plogF32) (lanes32 a) := lanes32_ofLanes32 _

theorem lanes32_pexpVec (env : Env) (cfg : Cfg) (a : Vec) :
    lanes32 (pexpVec env cfg a) = pexpLanes cfg (draws32 env .pexpF32) (lanes32 a) := lanes32_ofLanes32 _

theorem lanes32_psqrt32Vec (env : Env) (cfg : Cfg) (a : Vec) :
    lanes32 (psqrt32Vec env cfg a) = psqrtLanes env.est cfg (draws32 env .psqrtF32) (lanes32 a) :=
  lanes32_ofLanes32 _

theorem lanes32_prsqrt32Vec (env : Env) (cfg : Cfg) (a : Vec) :
    lanes32 (prsqrt32Vec env cfg a) = prsqrtLanes env.est cfg (draws32 env .prsqrtF32) (lanes32 a) :=
  lanes32_ofLanes32 _

theorem lanes64_psqrt64Vec (env : Env) (a : Vec) :
    lanes64 (psqrt64Vec env a) = fun i => psqrt64 (draws64 env .psqrtF64 i) (lanes64 a i) := lanes64_ofLanes64 _

theorem lanes64_prsqrt64Vec (env : Env) (a : Vec) :
    lanes64 (prsqrt64Vec env a) = fun i => prsqrt64 (draws64 env .prsqrtF64 i) (lanes64 a i) :=
  lanes64_ofLanes64 _

/-- A step is the clock edge and, exactly when a head of `Q` is due, an offered response: every field but the response is
what the clock edge gives it. -/
theorem step_eq_edge_or_offer (s : State) :
    (fetch (clockEdge s) = none ∧ step s = .next (clockEdge s)) ∨
      (fetch (clockEdge s) ≠ none ∧ ∃ y err, step s = .next ((clockEdge s).offer y err)) := by
  rcases step_cases s with h | ⟨e, rest, i, hq, hf, -, hs⟩ | ⟨e, rest, err, hq, hf, -, hs⟩
  · exact .inl h
  · exact .inr ⟨by simp [hf], _, _, hs.trans (exec_cons hq i)⟩
  · exact .inr ⟨by simp [hf], _, _, hs.trans (answer_cons hq _ _)⟩

/-- What a step does to the fields a response does not touch. -/
theorem step_frame {s t : State} (h : step s = .next t) :
    t.pins = nextPins s ∧ t.reqReady = nextReqReady s ∧ t.q = nextQueue s ∧ t.reqBroken = brokenAfter s ∧
      t.held = nextHeld s ∧ t.cycle = s.cycle + 1 ∧ t.script = s.script.tail := by
  rcases step_eq_edge_or_offer s with ⟨-, hs⟩ | ⟨-, y, err, hs⟩ <;>
    (rw [hs] at h; cases h; exact ⟨rfl, rfl, rfl, rfl, rfl, rfl, rfl⟩)

/-- A requester that breaks no offer from the next state on, and has broken none now, breaks none. -/
theorem keepsOffers_of_step {s t : State} (h : step s = .next t) (hb : s.reqBroken = false) (ht : keepsOffers t) :
    keepsOffers s := by
  intro k u hu
  cases k with
  | zero => cases hu; exact hb
  | succ k => exact ht k u (stepMany_succ h k ▸ hu)

/-- A requester whose pins stay breaks no offer (log 2). -/
theorem keepsOffers_of_script_nil {s : State} (hs : s.script = []) (hb : s.reqBroken = false) : keepsOffers s := by
  intro k
  induction k generalizing s with
  | zero => intro t ht; cases ht; exact hb
  | succ k ih =>
    intro u hu
    rcases hstep : step s with t | r | r
    · obtain ⟨-, -, -, hbr, -, -, hsc⟩ := step_frame hstep
      refine ih (by rw [hsc, hs]; rfl) ?_ u (stepMany_succ hstep k ▸ hu)
      rw [hbr]
      cases hv : s.pins.reqValid <;> simp [brokenAfter, holdsRequest, nextPins, hs, hb, hv]
    · simp [stepMany, hstep] at hu
    · simp [stepMany, hstep] at hu

end Sys2Proof.Machine
end

