-- ==== Sys2Proof/Laws/Float.lean ====
section
/-! SUPPORT. The small laws of patterns, NaN draws and the rounding's one exit (40_lane_primitives.md R101, R109). -/

namespace Sys2Proof.Machine

theorem pack32_msb_false {m : Nat} (h : m < 2 ^ 31) : (pack32 false m).msb = false := by
  simp only [pack32, BitVec.msb_eq_decide, BitVec.toNat_ofNat]
  simp only [decide_eq_false_iff_not]
  norm_num at *
  omega

theorem pack32_msb_true {m : Nat} (h : m < 2 ^ 31) : (pack32 true m).msb = true := by
  simp only [pack32, BitVec.msb_eq_decide, BitVec.toNat_ofNat]
  simp only [decide_eq_true_eq]
  norm_num at *
  omega

/-- The sign of a packed pattern. -/
theorem pack32_msb (s : Bool) {m : Nat} (h : m < 2 ^ 31) : (pack32 s m).msb = s := by
  cases s
  · exact pack32_msb_false h
  · exact pack32_msb_true h

/-- The bits below the sign of a packed pattern. -/
theorem pack32_mag (s : Bool) {m : Nat} (h : m < 2 ^ 31) : mag32 (pack32 s m) = m := by
  unfold mag32 pack32
  rw [BitVec.toNat_ofNat]
  cases s <;> norm_num at * <;> omega

/-- A packed pattern as a datum. -/
theorem datum32_pack32 (s : Bool) {m : Nat} (h : m < 2 ^ 31) : datum32 (pack32 s m) = b32.datum s m := by
  unfold datum32
  rw [pack32_msb s h, pack32_mag s h]

/-- A rounded magnitude is at most that of infinity. -/
theorem roundMag_le (f : Fmt) (n : Nat) (e : Int) : f.roundMag n e ≤ f.infMag := by
  unfold Fmt.roundMag
  split
  · exact Nat.zero_le _
  · exact Nat.min_le_right _ _

theorem b32_infMag : b32.infMag = 2139095040 := by decide

/-- A magnitude of infinity or above is the datum of an infinity or a NaN. -/
theorem datum_infMag (s : Bool) : b32.datum s b32.infMag = .inf s := by
  cases s <;> decide

/-- A NaN draw is a NaN (R109). -/
@[simp] theorem isNaN32_bitsOfNaN32 (x : NaN32) : isNaN32 (bitsOfNaN32 x) = true := by
  have hx := x.fracLessOne.isLt
  have hm : b32.infMag + (x.fracLessOne.val + 1) < 2 ^ 31 := by
    rw [b32_infMag]; norm_num; omega
  unfold isNaN32 bitsOfNaN32
  rw [datum32_pack32 _ hm]
  unfold Fmt.datum
  have h1 : (b32.infMag + (x.fracLessOne.val + 1)) / 2 ^ b32.fbits = b32.expMax := by
    rw [b32_infMag]; simp only [b32, Fmt.expMax]; norm_num; omega
  have h2 : (b32.infMag + (x.fracLessOne.val + 1)) % 2 ^ b32.fbits ≠ 0 := by
    rw [b32_infMag]; simp only [b32]; norm_num; omega
  simp [h1, h2]

/-- A magnitude below infinity's is a number's. -/
theorem datum_finite {s : Bool} {m : Nat} (h : m < b32.infMag) : ∃ n e, b32.datum s m = .fin s n e := by
  have h1 : m / 2 ^ b32.fbits ≠ b32.expMax := by
    rw [b32_infMag] at h
    simp only [b32, Fmt.expMax]; norm_num; omega
  unfold Fmt.datum
  simp only [h1, if_false]
  split
  · exact ⟨_, _, rfl⟩
  · exact ⟨_, _, rfl⟩

/-- What a finished result is: a NaN for no exact result, and for no other. -/
theorem isNaN32_finish32 (x : NaN32) (r : Datum) : isNaN32 (finish32 x r) = (r == .nan) := by
  cases r with
  | nan => simp [finish32]
  | inf s =>
    have hm : b32.infMag < 2 ^ 31 := by rw [b32_infMag]; norm_num
    simp only [finish32, isNaN32, datum32_pack32 s hm, datum_infMag]
  | fin s n e =>
    have hle := roundMag_le b32 n e
    have hm : b32.roundMag n e < 2 ^ 31 := by
      have : b32.infMag < 2 ^ 31 := by rw [b32_infMag]; norm_num
      omega
    simp only [finish32, isNaN32, datum32_pack32 s hm]
    rcases Nat.lt_or_eq_of_le hle with h | h
    · obtain ⟨n', e', hd⟩ := datum_finite (s := s) h
      rw [hd]; rfl
    · rw [h, datum_infMag]; rfl

end Sys2Proof.Machine
end

