-- ==== Sys2Proof/Laws/PerInstr.lean ====
section
/-! SUPPORT. The per-instruction family `EncodesLegal`: an operation's fields are well formed and its word is legal
(30_encoding.md R75). -/

namespace Sys2Proof.Laws

/-- The word of an operation has that operation's fields, and they are well formed. -/
def EncodesLegal.Statement (i : Instr) : Prop :=
  i.wellFormed = true ∧ opFields (encodeWord i) = i.fields ∧ legal (encodeWord i) = true

theorem EncodesLegal.psinF32 : EncodesLegal.Statement .psinF32 := by unfold EncodesLegal.Statement; decide
theorem EncodesLegal.plogF32 : EncodesLegal.Statement .plogF32 := by unfold EncodesLegal.Statement; decide
theorem EncodesLegal.pexpF32 : EncodesLegal.Statement .pexpF32 := by unfold EncodesLegal.Statement; decide
theorem EncodesLegal.psqrtF32 : EncodesLegal.Statement .psqrtF32 := by unfold EncodesLegal.Statement; decide
theorem EncodesLegal.prsqrtF32 : EncodesLegal.Statement .prsqrtF32 := by unfold EncodesLegal.Statement; decide
theorem EncodesLegal.psqrtF64 : EncodesLegal.Statement .psqrtF64 := by unfold EncodesLegal.Statement; decide
theorem EncodesLegal.prsqrtF64 : EncodesLegal.Statement .prsqrtF64 := by unfold EncodesLegal.Statement; decide

end Sys2Proof.Laws
end

