-- ==== Sys2Proof/Tests/Slice0.lean ====
section
/-! SUPPORT. Small tests on expected values of 95_test_vectors.md and 30_encoding.md, and for every statement with
hypotheses a witness that meets them. -/

namespace Sys2Proof.Tests

open Sys2Proof Sys2Proof.Machine

-- One proof after another: each worker thread of this compiler reserves about 1 GiB.
set_option Elab.async false

/-! ### Well-formedness: one ill-formed term for each check (R71 to R73) -/

theorem test_wf_refuses_rsv : (OpFields.mk 0 0 1).wellFormed = false ∧ (OpFields.mk 0 0 1).rsvZero = false := by decide
theorem test_wf_refuses_func : (OpFields.mk 5 0 0).wellFormed = false ∧ (OpFields.mk 5 0 0).funcNamed = false := by decide
theorem test_wf_refuses_prec : (OpFields.mk 2 1 0).wellFormed = false ∧ (OpFields.mk 2 1 0).precAllowed = false := by decide

/-! ### Decoding: each word written out from R70 and R75, `RSV ++ PREC ++ FUNC` -/

theorem test_decode_psin : decodeWord (0b0000#4 ++ 0b0#1 ++ 0b000#3) = .ok .psinF32 := by decide
theorem test_decode_plog : decodeWord (0b0000#4 ++ 0b0#1 ++ 0b001#3) = .ok .plogF32 := by decide
theorem test_decode_pexp : decodeWord (0b0000#4 ++ 0b0#1 ++ 0b010#3) = .ok .pexpF32 := by decide
theorem test_decode_psqrt : decodeWord (0b0000#4 ++ 0b0#1 ++ 0b011#3) = .ok .psqrtF32 := by decide
theorem test_decode_prsqrt : decodeWord (0b0000#4 ++ 0b0#1 ++ 0b100#3) = .ok .prsqrtF32 := by decide
theorem test_decode_psqrt64 : decodeWord (0b0000#4 ++ 0b1#1 ++ 0b011#3) = .ok .psqrtF64 := by decide
theorem test_decode_prsqrt64 : decodeWord (0b0000#4 ++ 0b1#1 ++ 0b100#3) = .ok .prsqrtF64 := by decide
theorem test_decode_refuses :
    decodeWord 0x07 = .error .reservedFunc ∧ decodeWord 0x0A = .error .noBinary64Form ∧
      decodeWord 0x13 = .error .reservedBits ∧ decode [] = .error .noWord := by decide
theorem test_decodeTableWord : decodeTableWord 8 0x0B = some .psqrtF64 ∧ decodeTableWord 8 0x1B = none := by decide

/-! ### Lanes of the operations, against 95_test_vectors.md §2 to §5 under the reference instance -/

/-- Lane 5 of an operation's result when every operand lane is `a`. -/
def lane5 (f : Vec → Vec) (a : W32) : W32 := lanes32 (f (ofLanes32 (fun _ => a))) 5

theorem test_psin_one :
    lane5 (psinVec referenceEnv (referenceCfg true true true true)) 0x3F800000 = 0x3F576AA4 := by decide +kernel
theorem test_psin_large_unfused :
    lane5 (psinVec referenceEnv (referenceCfg false true true true)) 0x49742400 = 0xBEC217CC := by decide +kernel
theorem test_plog_ten :
    lane5 (plogVec referenceEnv (referenceCfg true true true true)) 0x41200000 = 0x40135D8E := by decide +kernel
theorem test_plog_fltMax :
    lane5 (plogVec referenceEnv (referenceCfg false true true true)) 0x7F7FFFFF = 0x42B17218 := by decide +kernel
theorem test_pexp_four_fused :
    lane5 (pexpVec referenceEnv (referenceCfg true true true true)) 0x40800000 = 0x425A6481 := by decide +kernel
theorem test_pexp_subnormal_unfused :
    lane5 (pexpVec referenceEnv (referenceCfg false true true true)) 0xC2AF5DC2 = 0x005A826C := by decide +kernel
theorem test_psqrt_modes :
    lane5 (psqrt32Vec referenceEnv (referenceCfg true true true true)) 0x40000000 = 0x40000000 ∧
      lane5 (psqrt32Vec referenceEnv (referenceCfg true true true false)) 0x40000000 = 0x3FB504F3 ∧
      lane5 (psqrt32Vec referenceEnv (referenceCfg true false true true)) 0x00000001 = 0x1A3504F3 := by
  decide +kernel
theorem test_prsqrt_modes :
    lane5 (prsqrt32Vec referenceEnv (referenceCfg true true true true)) 0x42C80000 = 0x3DCCCCCC ∧
      lane5 (prsqrt32Vec referenceEnv (referenceCfg true true false true)) 0x42C80000 = 0x3DCCCCCD := by
  decide +kernel
theorem test_psqrt64_three :
    lanes64 (psqrt64Vec referenceEnv (ofLanes64 (fun _ => 0x4008000000000000))) 2 = 0x3FFBB67AE8584CAA := by
  decide +kernel
theorem test_prsqrt64_two :
    lanes64 (prsqrt64Vec referenceEnv (ofLanes64 (fun _ => 0x4000000000000000))) 1 = 0x3FE6A09E667F3BCC := by
  decide +kernel

/-! ### The machine -/

/-- From reset, with a word placed where the next step fetches, that step offers the answer: `1/√+0` in 4 lanes (R211). -/
theorem test_step_from_reset :
    (match step (State.reset.withFetchWord 8 0x0C) with
      | .next t => t.rspValid && !t.rspErr &&
          t.rspY == 0x7FF00000000000007FF00000000000007FF00000000000007FF0000000000000
      | _ => false) = true := by decide +kernel

/-- The same with an illegal word: `(0^256, 1)` (R302). -/
theorem test_step_illegal_from_reset :
    (match step (State.reset.withFetchWord 8 0x08) with
      | .next t => t.rspValid && t.rspErr && t.rspY == 0
      | _ => false) = true := by decide +kernel

/-! ### States for the witnesses -/

/-- The reference configuration, fused, with all approximate modes. -/
def cfg1 : Cfg := referenceCfg true true true true

/-- A cycle out of reset with one request in `Q`, due in the next cycle. -/
def waiting (op : OpWord) (a : Vec) : State where
  pins := ⟨true, false, 0, 0, true, cfg1⟩
  reqReady := false
  rspValid := false
  rspY := 0
  rspErr := false
  q := [⟨op, a, 1, false⟩]
  reqBroken := false
  held := 0
  cycle := 0
  script := []

/-- A cycle out of reset in which the error response of an illegal word is offered and not taken. -/
def offering : State where
  pins := ⟨true, true, 0x02, 0, false, cfg1⟩
  reqReady := false
  rspValid := true
  rspY := 0
  rspErr := true
  q := [⟨0x08, 0, 0, false⟩]
  reqBroken := false
  held := 0
  cycle := 0
  script := []

theorem unitInv_waiting (op : OpWord) (a : Vec) (script : List Pins := []) :
    UnitInv { waiting op a with script := script } where
  quiet := by intro h; cases h
  capacity := ⟨Nat.succ_le_succ (Nat.zero_le _), by intro h; cases h⟩
  patience := Nat.zero_le _
  head := by intro h; cases h
  inTime := by
    intro _ _ e rest h
    cases h
    exact Nat.one_pos

theorem unitInv_offering (script : List Pins) : UnitInv { offering with script := script } where
  quiet := by intro h; cases h
  capacity := ⟨Nat.succ_le_succ (Nat.zero_le _), by intro h; cases h⟩
  patience := Nat.zero_le _
  head := by
    intro _
    exact ⟨_, _, rfl, rfl, rfl, fun _ => rfl⟩
  inTime := by intro _ h; cases h

/-! ### Witnesses: concrete states and operands that meet a statement's hypotheses -/

theorem witness_IllegalWords : legal 0x05 = false ∧ legal 0x0A = false ∧ legal 0x10 = false := by decide

theorem witness_StepKeepsUnitInv : ∃ s t, UnitInv s ∧ step s = .next t ∧ t.rspValid = true :=
  ⟨waiting 0x08 0, _, unitInv_waiting _ _, rfl, rfl⟩

theorem witness_ResetEdge :
    ({ offering with pins := { offering.pins with rstN := false } } : State).pins.rstN = false ∧
      (∃ t, step { offering with script := [{ offering.pins with rstN := false }] } = .next t ∧
        t.pins.rstN = false) ∧ offering.pins.rstN = true := ⟨rfl, ⟨_, rfl, rfl⟩, rfl⟩

theorem witness_QueueIsFirstInFirstOut :
    UnitInv (waiting 0x08 0) ∧ (waiting 0x08 0).pins.rstN = true ∧ (waiting 0x08 0).reqBroken = false ∧
      UnitInv { offering with script := [] } ∧ offering.pins.rstN = true ∧ offering.reqBroken = false :=
  ⟨unitInv_waiting _ _, rfl, rfl, unitInv_offering _, rfl, rfl⟩

theorem witness_UntakenResponse :
    offering.rspValid = true ∧ offering.pins.rspReady = false ∧ offering.pins.rstN = true ∧
      (offering.script.headD offering.pins).rstN = true ∧
      (offering.script.headD offering.pins).cfg = offering.pins.cfg := ⟨rfl, rfl, rfl, rfl, rfl⟩

/-- Cycles in which a stable request is not taken: with a response refused, with a response taken, and in reset. -/
theorem witness_StableRequestQueue :
    (∃ t, step offering = .next t ∧ requests t = [(0x08, 0)]) ∧
      (∃ t, step { offering with pins := { offering.pins with rspReady := true } } = .next t ∧ requests t = []) ∧
      ∃ t, step { offering with pins := { offering.pins with rstN := false } } = .next t ∧ requests t = [] :=
  ⟨⟨_, rfl, rfl⟩, ⟨_, rfl, rfl⟩, ⟨_, rfl, rfl⟩⟩

theorem witness_StableRequest :
    offering.reqBroken = false ∧ offering.reqReady = false ∧ offering.pins.reqValid = true ∧
      (offering.script.headD offering.pins).reqValid = true ∧
      (offering.script.headD offering.pins).reqOp = offering.pins.reqOp ∧
      (offering.script.headD offering.pins).reqA = offering.pins.reqA := ⟨rfl, rfl, rfl, rfl, rfl, rfl⟩

theorem witness_ConfigurationChange :
    UnitInv { offering with script := [{ offering.pins with cfg := { cfg1 with fma := false } }] } ∧
      offering.pins.rstN = true ∧ { cfg1 with fma := false } ≠ offering.pins.cfg :=
  ⟨unitInv_offering _, rfl, by decide⟩

theorem witness_StepRuns :
    (clockEdge (waiting 0x00 0)).q = [⟨0x00, 0, 0, false⟩] ∧ (clockEdge (waiting 0x00 0)).pins.rstN = true ∧
      (clockEdge (waiting 0x00 0)).rspValid = false ∧ decode [0x00] = .ok (.psinF32, []) :=
  ⟨rfl, rfl, rfl, by decide⟩

theorem witness_IllegalWordGetsErrorResponse :
    (clockEdge (waiting 0x08 1)).q = [⟨0x08, 1, 0, false⟩] ∧ (clockEdge (waiting 0x08 1)).pins.rstN = true ∧
      (clockEdge (waiting 0x08 1)).rspValid = false ∧ legal 0x08 = false := ⟨rfl, rfl, rfl, by decide⟩

theorem witness_LegalWordNeverSetsError : ∃ t, exec .pexpF32 (waiting 0x02 0) = .next t := ⟨_, rfl⟩

theorem witness_HeadIsOffered :
    UnitInv (waiting 0x01 0) ∧ (waiting 0x01 0).q = [⟨0x01, 0, 1, false⟩] ∧ (waiting 0x01 0).pins.rstN = true ∧
      ∀ p ∈ (waiting 0x01 0).script, p.rstN = true := ⟨unitInv_waiting _ _, rfl, rfl, by simp [waiting]⟩

/-- What a requester drives that raises a request, and then holds it while it changes the configuration. -/
def raising : List Pins :=
  [⟨true, true, 0x02, 7, true, cfg1⟩, ⟨true, true, 0x02, 7, true, { cfg1 with fma := false }⟩]

/-- A requester whose pins change, and that breaks no offer. -/
theorem witness_UnitIsReady :
    UnitInv { waiting 0x01 0 with script := raising } ∧ (waiting 0x01 0).pins.rstN = true ∧
      (waiting 0x01 0).pins.rspReady = true ∧ (∀ p ∈ raising, p.rstN = true ∧ p.rspReady = true) ∧
      keepsOffers { waiting 0x01 0 with script := raising } := by
  refine ⟨unitInv_waiting _ _ _, rfl, rfl, by decide, ?_⟩
  obtain ⟨t, ht⟩ : ∃ t, step { waiting 0x01 0 with script := raising } = .next t := ⟨_, rfl⟩
  obtain ⟨hp, -, -, hb, -, -, hs⟩ := step_frame ht
  refine keepsOffers_of_step ht rfl ?_
  have hb' : t.reqBroken = false := hb
  rcases ht' : step t with u | r | r
  · obtain ⟨-, -, -, hb2, -, -, hs2⟩ := step_frame ht'
    refine keepsOffers_of_step ht' hb' (keepsOffers_of_script_nil (by rw [hs2, hs]; rfl) ?_)
    rw [hb2]
    have hn : holdsRequest t.pins (nextPins t) = true := by
      rw [hp]; unfold nextPins; rw [hs]; rfl
    simp [brokenAfter, hb', hn]
  · rcases step_eq_edge_or_offer t with ⟨-, h⟩ | ⟨-, y, err, h⟩ <;> simp [h] at ht'
  · rcases step_eq_edge_or_offer t with ⟨-, h⟩ | ⟨-, y, err, h⟩ <;> simp [h] at ht'

/-- Two states that differ in an operand, with the same timing. -/
theorem witness_Timing :
    SameTiming (waiting 0x00 0) (waiting 0x00 0x7FC00000) ∧ waiting 0x00 0 ≠ waiting 0x00 0x7FC00000 ∧
      holdsRequest (waiting 0x00 0).pins (nextPins (waiting 0x00 0)) =
        holdsRequest (waiting 0x00 0x7FC00000).pins (nextPins (waiting 0x00 0x7FC00000)) :=
  ⟨⟨rfl, .nil, rfl, rfl, rfl, rfl, rfl, rfl⟩, by decide, rfl⟩

/-- The hypotheses of every operation's result statement: a head of `Q` that no change of configuration touched. -/
theorem witness_AnswersTheHead (op : OpWord) :
    (waiting op 0x3F800000).q = [⟨op, 0x3F800000, 1, false⟩] ∧ (⟨op, 0x3F800000, 1, false⟩ : Entry).spoiled = false :=
  ⟨rfl, rfl⟩

theorem witness_PsinAnswersTheHead :
    (waiting 0x00 0x3F800000).q = [⟨0x00, 0x3F800000, 1, false⟩] := (witness_AnswersTheHead _).1
theorem witness_PlogAnswersTheHead :
    (waiting 0x01 0x3F800000).q = [⟨0x01, 0x3F800000, 1, false⟩] := (witness_AnswersTheHead _).1
theorem witness_PexpAnswersTheHead :
    (waiting 0x02 0x3F800000).q = [⟨0x02, 0x3F800000, 1, false⟩] := (witness_AnswersTheHead _).1
theorem witness_PsqrtF64AnswersTheHead :
    (waiting 0x0B 0x3F800000).q = [⟨0x0B, 0x3F800000, 1, false⟩] := (witness_AnswersTheHead _).1
theorem witness_PrsqrtF64AnswersTheHead :
    (waiting 0x0C 0x3F800000).q = [⟨0x0C, 0x3F800000, 1, false⟩] := (witness_AnswersTheHead _).1

/-- Each mode of the two binary32 roots, with a head in `Q`. -/
theorem witness_PsqrtF32AnswersTheHead :
    (waiting 0x03 4).q = [⟨0x03, 4, 1, false⟩] ∧ cfg1.sqrt32Approx = true ∧ cfg1.psqrtRawMax = true ∧
      (referenceCfg true true true false).sqrt32Approx = true ∧
      (referenceCfg true true true false).psqrtRawMax = false ∧
      (referenceCfg true false true false).sqrt32Approx = false := ⟨rfl, rfl, rfl, rfl, rfl, rfl⟩

theorem witness_PrsqrtF32AnswersTheHead :
    (waiting 0x04 4).q = [⟨0x04, 4, 1, false⟩] ∧ cfg1.rsqrt32Approx = true ∧
      (referenceCfg true false false false).rsqrt32Approx = false := ⟨rfl, rfl, rfl⟩

/-- Operands that agree in the lowest and in the highest lane, and differ elsewhere. -/
theorem witness_LanesAreIndependent :
    lanes32 0 0 = lanes32 0x100000000 0 ∧ lanes32 0 7 = lanes32 0x100000000 7 ∧ (0 : Vec) ≠ 0x100000000 ∧
      lanes64 0 3 = lanes64 1 3 ∧ (waiting 0x00 5).q = [⟨0x00, 5, 1, false⟩] ∧
      ({ waiting 0x00 5 with q := ⟨0x00, 5, 1, false⟩ :: offering.q } : State).q = ⟨0x00, 5, 1, false⟩ :: offering.q :=
  ⟨by decide, by decide, by decide, by decide, rfl, rfl⟩

theorem witness_Binary64IgnoresConfiguration :
    referenceEnv.nan64 = ({ referenceEnv with est := fun a => a } : Env).nan64 ∧
      cfg1 ≠ { cfg1 with sqrt32Approx := false } := ⟨rfl, by decide⟩

theorem witness_FaddFollowsItsRule :
    isNaN32 0x7F800001 = true ∧ isInf32 0x7F800000 = true ∧ isInf32 0xFF800000 = true ∧
      isNaN32 0x7F7FFFFF = false ∧ isFin32 0x7F7FFFFF = true ∧ isFin32 C_SIGN = true ∧ isFin32 C_ZERO = true ∧
      value32 C_SIGN + value32 C_SIGN = 0 ∧ value32 0x00000001 + value32 0x00000001 ≠ 0 := by decide +kernel

theorem witness_FmulFollowsItsRule :
    isInf32 0x7F800000 = true ∧ isFin32 C_SIGN = true ∧ value32 C_SIGN = 0 ∧ isFin32 0x00000001 = true ∧
      value32 0x00000001 ≠ 0 ∧ value32 (fmul (fun _ _ => default) 0x00000001 0x80000001) = 0 := by decide +kernel

theorem witness_FdivFollowsItsRule :
    isNaN32 0xFFFFFFFF = true ∧ isInf32 0x7F800000 = true ∧ isFin32 C_ZERO = true ∧ value32 C_ZERO = 0 ∧
      isFin32 0x00000001 = true ∧ value32 0x00000001 ≠ 0 ∧ isNaN64 0xFFFFFFFFFFFFFFFF = true ∧
      isInf64 0x7FF0000000000000 = true ∧ isFin64 0 = true ∧ value64 0 = 0 ∧ isFin64 1 = true ∧ value64 1 ≠ 0 := by
  decide +kernel

theorem witness_FmaFollowsItsRule :
    isNaN32 0x7F800001 = true ∧ isInf32 0x7F800000 = true ∧ isFin32 C_ZERO = true ∧ value32 C_ZERO = 0 ∧
      isFin32 C_ONE = true ∧ value32 C_ONE ≠ 0 ∧ isInf32 0xFF800000 = true ∧
      (0xFF800000 : W32).msb ≠ ((0x7F800000 : W32).msb ^^ C_ONE.msb) ∧
      value32 C_ZERO * value32 C_SIGN + value32 C_SIGN = 0 ∧
      value32 C_ONE * value32 C_ONE + value32 C_ONE ≠ 0 := by decide +kernel

theorem witness_FsqrtFollowsItsRule :
    isNaN32 0x7F800001 = true ∧ (0x80000001 : W32).msb = true ∧ (0x80000001 : W32) ≠ C_SIGN ∧
      isFin32 0x7F7FFFFF = true ∧ (0x7F7FFFFF : W32).msb = false ∧ isNaN64 0x7FF0000000000001 = true ∧
      (0x8000000000000001 : W64).msb = true ∧ isFin64 0x0000000000000001 = true := by decide +kernel

theorem witness_FfloorFollowsItsRule :
    isNaN32 0x7F800001 = true ∧ isInf32 0xFF800000 = true ∧ isFin32 0x3F7FFFFF = true ∧
      value32 0x3F7FFFFF ≠ 0 ∧ ⌊value32 0x3F7FFFFF⌋ = 0 ∧ isFin32 0x4B000000 = true ∧
      2 ^ 23 ≤ |value32 0x4B000000| := by decide +kernel

/-- The places of 1 and of 2, for the witnesses of the statements by order. -/
theorem place32_one_lt_two : place32 C_ONE < place32 C_TWO := by
  have h1 : datum32 C_ONE = .fin false 8388608 (-23) := by decide
  have h2 : datum32 C_TWO = .fin false 8388608 (-22) := by decide
  unfold place32
  rw [h1, h2]
  simp only [EReal.coe_lt_coe_iff, numberOf, signedInt]
  norm_num

theorem witness_MaxAndMin :
    isNaN32 C_ONE = false ∧ isNaN32 C_TWO = false ∧ place32 C_ONE < place32 C_TWO ∧ isNaN32 C_QNAN = true :=
  ⟨by decide, by decide, place32_one_lt_two, by decide⟩

theorem witness_ConversionTruncates :
    isFin32 0x7F800000 = false ∧ isFin32 0xCF000000 = true ∧ ⌈value32 0xCF000000⌉ = -2 ^ 31 ∧
      isFin32 0x4F000000 = true ∧ ⌊value32 0x4F000000⌋ = 2 ^ 31 := by decide +kernel

theorem witness_ExponentExtraction :
    (0x00000000 : W32).msb = false ∧ (0x7F800000 : W32).msb = false := by decide

theorem witness_ExponentInjection :
    isFin32 0xC2FC0000 = true ∧ value32 0xC2FC0000 = ((-126 : ℤ) : ℚ) ∧ isFin32 0x42FE0000 = true ∧
      value32 0x42FE0000 = ((127 : ℤ) : ℚ) ∧ value32 0xC2FE0000 = ((-127 : ℤ) : ℚ) ∧
      value32 0x43000000 = ((128 : ℤ) : ℚ) := by decide +kernel

theorem witness_SignFlip :
    isFin32 0xFF800000 = false ∧ isFin32 0xBF800000 = true ∧ ⌈value32 0xBF800000⌉ = -1 ∧
      isFin32 0x4F000000 = true ∧ ⌊value32 0x4F000000⌋ = 2 ^ 31 ∧ ⌈value32 0xCF000000⌉ = -2 ^ 31 := by decide +kernel

theorem witness_Mantissa : (0x7F800000 : W32).msb = false ∧ (0x00000000 : W32).msb = false := by decide

theorem witness_SinOddIsOdd :
    isNaN32 (sinOdd cfg1 (fun _ _ _ _ => default) C_ONE) = false := by decide +kernel

theorem witness_LogReduction :
    cmpLT (mantHalf (logClamp C_ONE)) cfg1.kl.L_SQRTHF = TRUE32 ∧
      cmpLT (mantHalf (logClamp 0x3F7FFFFF)) cfg1.kl.L_SQRTHF = FALSE32 := by decide +kernel

theorem witness_PlogSpecialLanes :
    isNaN32 0x7F800001 = true ∧ isNaN32 0x80000001 = false ∧ (0x80000001 : W32).msb = true ∧
      (0x80000001 : W32) ≠ C_SIGN ∧ isNaN32 0xFF800000 = false ∧ (0xFF800000 : W32).msb = true := by decide

theorem witness_PlogOfSubnormal :
    0 < (0x00000001 : W32).toNat ∧ (0x00000001 : W32).toNat < 0x00800000 ∧
      0 < (0x007FFFFF : W32).toNat ∧ (0x007FFFFF : W32).toNat < 0x00800000 := by decide

theorem witness_PexpIsNeverBelow : isNaN32 0xFFFFFFFF = true ∧ isNaN32 0x7F800000 = false := by decide

theorem witness_PexpSaturates :
    isNaN32 cfg1.ke.E_HI = false ∧ place32 cfg1.ke.E_HI ≤ place32 cfg1.ke.E_HI := ⟨by decide, le_refl _⟩

theorem witness_ExpReduction : cfg1.ke = referenceKE := rfl

theorem witness_Estimate :
    isFin32 0x00800000 = true ∧ (0x00800000 : W32).msb = false ∧ isFin32 0x7F7FFFFF = true ∧
      (0x7F7FFFFF : W32).msb = false ∧ (0x007FFFFF : W32).msb = false ∧ mag32 0x807FFFFF < 0x00800000 ∧
      (0x80800000 : W32).msb = true ∧ 0x00800000 ≤ mag32 0x80800000 ∧ isNaN32 0x7F800001 = true := by decide

/-- Raw bits that meet the first row of the contract: the estimate 1 for the operand 1. -/
theorem witness_EstimateRaw :
    isFin32 C_ONE = true ∧ C_ONE.msb = false ∧ 0x00800000 ≤ C_ONE.toNat ∧
      |(value32 C_ONE : ℝ) * Real.sqrt ((value32 C_ONE : ℚ) : ℝ) - 1| ≤ 1.5 / 2 ^ 12 := by
  refine ⟨by decide, by decide, by decide, ?_⟩
  have h1 : datum32 C_ONE = .fin false 8388608 (-23) := by decide
  have hv : value32 C_ONE = 1 := by
    unfold value32
    rw [h1]
    norm_num [numberOf, signedInt]
  rw [hv]
  norm_num

theorem witness_PrsqrtApprox :
    (0x00000001 : W32).msb = false ∧ (0x007FFFFF : W32).toNat < 0x00800000 ∧ isFin32 0x80000001 = true ∧
      (0x80000001 : W32).msb = true ∧ (0x80000001 : W32) ≠ C_SIGN ∧ isFin32 0xFF7FFFFF = true ∧
      isInf32 0xFF800000 = true ∧ isNaN32 0x7F800001 = true := by decide

theorem witness_PsqrtApprox :
    (0x00800000 : W32).msb = false ∧ (0x00800000 : W32).toNat ≤ 0x00800000 ∧ isFin32 0x80000002 = true ∧
      (0x80000002 : W32).msb = true ∧ 2 ≤ mag32 0x80000002 ∧ mag32 0x807FFFFF < 0x00800000 ∧
      cfg1.psqrtRawMax = true ∧ (referenceCfg true true true false).psqrtRawMax = false ∧
      (0x80800000 : W32).msb = true ∧ 0x00800000 ≤ mag32 0x80800000 ∧ isNaN32 0x7F800001 = true := by decide

theorem witness_ExactReciprocalRoot :
    (0x80000001 : W32).msb = true ∧ (0x80000001 : W32) ≠ 0x80000000 ∧ isNaN32 0x7F800001 = true ∧
      (0x8000000000000001 : W64).msb = true ∧ (0x8000000000000001 : W64) ≠ 0x8000000000000000 ∧
      isNaN64 0x7FF0000000000001 = true := by decide +kernel

theorem witness_PsinOfNaN :
    isNaN32 0x7F800001 = true ∧ cfg1.ks = referenceKS ∧ isInf32 0x7F800000 = true ∧ isInf32 0xFF800000 = true := by
  decide

theorem witness_SelectChoosesByMask : TRUE32 = (0xFFFFFFFF : W32) ∧ FALSE32 = (0 : W32) := by decide

end Sys2Proof.Tests
end

section
/-! The operation function `F` of 10_state.md R31, case by case, and what it does not depend on. -/

namespace Sys2Proof.Machine

theorem opFunction_of_decode_ok {op : OpWord} {i : Instr} (h : decodeWord op = .ok i) (env : Env) (cfg : Cfg)
    (a : Vec) : opFunction env cfg op a = (resultOf env cfg i a, false) := by
  simp [opFunction, h]

theorem opFunction_of_decode_error {op : OpWord} {err : DecodeError} (h : decodeWord op = .error err) (env : Env)
    (cfg : Cfg) (a : Vec) : opFunction env cfg op a = (0, true) := by
  simp [opFunction, h]

/-- The error bit is decided by the word alone (R302, R303). -/
theorem opFunction_err_eq (env env' : Env) (cfg cfg' : Cfg) (op : OpWord) (a a' : Vec) :
    (opFunction env cfg op a).2 = (opFunction env' cfg' op a').2 := by
  cases h : decodeWord op with
  | ok i => simp only [opFunction_of_decode_ok h]
  | error err => simp only [opFunction_of_decode_error h]

/-- Every operation has well-formed fields (R75). -/
theorem instr_wellFormed (i : Instr) : i.wellFormed = true := by
  cases i
  case psinF32 => exact Laws.EncodesLegal.psinF32.1
  case plogF32 => exact Laws.EncodesLegal.plogF32.1
  case pexpF32 => exact Laws.EncodesLegal.pexpF32.1
  case psqrtF32 => exact Laws.EncodesLegal.psqrtF32.1
  case prsqrtF32 => exact Laws.EncodesLegal.prsqrtF32.1
  case psqrtF64 => exact Laws.EncodesLegal.psqrtF64.1
  case prsqrtF64 => exact Laws.EncodesLegal.prsqrtF64.1

end Sys2Proof.Machine
end

section
/-! The queue and the two channels at a clock edge (10_state.md R29, 70_reset_and_hazards.md R330 to R336). -/

namespace Sys2Proof.Machine

/-- `Q` as `(op, a)` pairs does not see the unit's own marks on its entries. -/
theorem map_request_spoil (c : Bool) (q : List Entry) :
    (spoil c q).map (fun e => (e.op, e.a)) = q.map (fun e => (e.op, e.a)) := by
  simp [spoil, Function.comp_def]

theorem map_request_tick (q : List Entry) :
    (q.map Entry.tick).map (fun e => (e.op, e.a)) = q.map (fun e => (e.op, e.a)) := by
  simp [Entry.tick, Function.comp_def]

/-- With no broken request, the request taken is the one that transfers (R20). -/
theorem takenRequest_of_not_broken {s : State} (hb : s.reqBroken = false) :
    takenRequest s =
      if s.pins.reqValid && s.reqReady then some (newEntry s.pins.reqOp s.pins.reqA) else none := by
  simp [takenRequest, hb]

/-- A request is taken only with room in `Q`, one of a broken handshake included (R335, log 10). -/
theorem length_lt_of_takenRequest {s : State} (hs : withinCapacity s) {e : Entry} (h : takenRequest s = some e) :
    s.q.length < Config.qdepth := by
  obtain ⟨-, hroom⟩ := hs
  unfold takenRequest at h
  split at h
  · split at h
    next hc =>
      simp only [Bool.and_eq_true, hasRoom, decide_eq_true_eq] at hc
      obtain ⟨⟨-, hlt⟩, -⟩ := hc
      exact hlt
    next => cases h
  · split at h
    next hc => exact hroom (Bool.and_eq_true_iff.1 hc).2
    next => cases h

theorem queueAfterTransfers_length (s : State) :
    (queueAfterTransfers s).length =
      (if responseTaken s then s.q.tail else s.q).length + (takenRequest s).toList.length := by
  simp [queueAfterTransfers]

/-- The transfers of one edge do not overfill `Q` (R339). -/
theorem queueAfterTransfers_length_le {s : State} (hs : withinCapacity s) :
    (queueAfterTransfers s).length ≤ Config.qdepth := by
  have hcap := hs.1
  have hrest : (if responseTaken s then s.q.tail else s.q).length ≤ s.q.length := by
    split
    · simp
    · exact le_refl _
  rw [queueAfterTransfers_length]
  cases h : takenRequest s with
  | none => simpa using hrest.trans hcap
  | some e =>
    have hlt := length_lt_of_takenRequest hs h
    simp only [Option.toList_some, List.length_singleton]
    omega

theorem nextQueue_length_le {s : State} (hs : withinCapacity s) : (nextQueue s).length ≤ Config.qdepth := by
  rw [nextQueue, spoil_length, queueAfterEdge]
  split
  · exact queueAfterTransfers_length_le hs
  · exact Nat.zero_le _

/-- Out of reset and with no broken request, an edge removes an answered head and appends a transferred request
(R29, R57). -/
theorem map_request_nextQueue {s : State} (hr : s.pins.rstN = true) (hb : s.reqBroken = false) :
    (nextQueue s).map (fun e => (e.op, e.a)) =
      (if s.rspValid && s.pins.rspReady then (requests s).tail else requests s) ++
        (if s.pins.reqValid && s.reqReady then [(s.pins.reqOp, s.pins.reqA)] else []) := by
  have hleft : (if responseTaken s then s.q.tail else s.q).map (fun e => (e.op, e.a)) =
      if s.rspValid && s.pins.rspReady then (requests s).tail else requests s := by
    unfold responseTaken requests
    split
    · exact List.map_tail
    · rfl
  have hright : (takenRequest s).toList.map (fun e => (e.op, e.a)) =
      if s.pins.reqValid && s.reqReady then [(s.pins.reqOp, s.pins.reqA)] else [] := by
    rw [takenRequest_of_not_broken hb]
    split <;> rfl
  rw [nextQueue, map_request_spoil, queueAfterEdge, if_pos hr, queueAfterTransfers, List.map_append,
    map_request_tick, hleft, hright]

/-- In reset the unit takes no request (R330). -/
theorem nextReqReady_of_reset {s : State} (h : (nextPins s).rstN = false) : nextReqReady s = false := by
  simp [nextReqReady, h]

/-- The unit is ready only with room (R335). -/
theorem nextQueue_length_lt_of_ready {s : State} (h : nextReqReady s = true) :
    (nextQueue s).length < Config.qdepth := by
  simp only [nextReqReady, Config.ready, Bool.and_eq_true, decide_eq_true_eq] at h
  obtain ⟨-, hlen, -⟩ := h
  exact hlen

/-- The unit holds `req_ready` low with room, while `rsp_ready` is given, only with patience left (R336). -/
theorem held_lt_patience_of_not_ready {s : State} (hr : (nextPins s).rstN = true)
    (hroom : hasRoom (nextQueue s) = true) (hresp : (nextPins s).rspReady = true) (h : nextReqReady s = false) :
    s.held < Config.patience := by
  have hlen : (nextQueue s).length < Config.qdepth := by simpa [hasRoom] using hroom
  have hoff : Config.holdOff (s.cycle + 1) = true ∧ s.held < Config.patience := by
    simpa [nextReqReady, Config.ready, hr, hresp, hlen] using h
  exact hoff.2

theorem nextHeld_le {s : State} (hs : patienceKept s) : nextHeld s ≤ Config.patience := by
  unfold nextHeld
  split
  next hc =>
    simp only [Bool.and_eq_true, Bool.not_eq_true'] at hc
    obtain ⟨⟨hr, hroom⟩, hready⟩ := hc
    split
    next hresp => exact held_lt_patience_of_not_ready hr hroom hresp hready
    next => exact hs
  next => exact Nat.zero_le _

theorem holdsResponse_iff (s : State) :
    holdsResponse s = true ↔
      s.rspValid = true ∧ s.pins.rspReady = false ∧ s.pins.rstN = true ∧ (nextPins s).rstN = true := by
  simp [holdsResponse, and_assoc]

/-- A held response keeps its head of `Q` (R334). -/
theorem nextQueue_of_holdsResponse {s : State} {e : Entry} {rest : List Entry} (h : holdsResponse s = true)
    (hq : s.q = e :: rest) :
    ∃ rest', nextQueue s = { e.tick with spoiled := e.spoiled || cfgChanges s } :: rest' := by
  obtain ⟨-, hnot, hr, -⟩ := (holdsResponse_iff s).1 h
  have htaken : responseTaken s = false := by simp [responseTaken, hnot]
  refine ⟨spoil (cfgChanges s) (rest.map Entry.tick ++ (takenRequest s).toList), ?_⟩
  simp [nextQueue, queueAfterEdge, queueAfterTransfers, hr, htaken, hq, Entry.tick]

theorem nextRspErr_of_holdsResponse {s : State} (h : holdsResponse s = true) : nextRspErr s = s.rspErr := by
  simp [nextRspErr, h]

theorem nextRspY_of_holdsResponse {s : State} (h : holdsResponse s = true) (hc : cfgChanges s = false) :
    nextRspY s = s.rspY := by
  simp [nextRspY, h, hc]

/-- A head of `Q` that is answered is due, out of reset. -/
theorem due_of_fetch {s : State} {e : Entry} {rest : List Entry} {bytes : List (BitVec 8)}
    (h : fetch s = some bytes) (hq : s.q = e :: rest) : s.pins.rstN = true ∧ e.wait = 0 := by
  obtain ⟨e', rest', hq', hr, -, hw, -⟩ := (fetch_eq_some_iff s bytes).1 h
  cases hq.symm.trans hq'
  exact ⟨hr, hw⟩

/-- Where nothing is answered out of reset and nothing is offered, the head of `Q` still waits. -/
theorem wait_pos_of_fetch_none {s : State} {e : Entry} {rest : List Entry} (h : fetch s = none)
    (hr : s.pins.rstN = true) (hv : s.rspValid = false) (hq : s.q = e :: rest) : 0 < e.wait := by
  refine Nat.pos_of_ne_zero fun hw => ?_
  have hsome := (fetch_eq_some_iff s [e.op]).2 ⟨e, rest, hq, hr, hv, hw, rfl⟩
  rw [h] at hsome
  cases hsome

end Sys2Proof.Machine
end

section
/-! A step is the clock edge, or the edge and the operation function's answer to a due head; each clause of the unit's
invariant is kept by both. -/

namespace Sys2Proof.Machine

/-- The state with the operation function's answer to the entry `e` offered (10_state.md R29, R31). -/
def State.offerFunction (s : State) (e : Entry) : State :=
  s.offer (resultFor s e fun a => (opFunction Config.env s.pins.cfg e.op a).1)
    (opFunction Config.env s.pins.cfg e.op e.a).2

/-- What a step does, in terms of the operation function: legal and illegal words alike are answered with it. -/
theorem step_edge_or_offerFunction (s : State) :
    (fetch (clockEdge s) = none ∧ step s = .next (clockEdge s)) ∨
      ∃ e rest, (clockEdge s).q = e :: rest ∧ (clockEdge s).pins.rstN = true ∧ e.wait = 0 ∧
        step s = .next ((clockEdge s).offerFunction e) := by
  rcases step_cases s with h | ⟨e, rest, i, hq, hf, hd, hs⟩ | ⟨e, rest, err, hq, hf, hd, hs⟩
  · exact .inl h
  · obtain ⟨hr, hw⟩ := due_of_fetch hf hq
    refine .inr ⟨e, rest, hq, hr, hw, ?_⟩
    rw [hs, exec_cons hq]
    simp only [State.offerFunction, opFunction_of_decode_ok hd]
  · obtain ⟨hr, hw⟩ := due_of_fetch hf hq
    refine .inr ⟨e, rest, hq, hr, hw, ?_⟩
    rw [hs, illegalResponse, answer_cons hq]
    simp only [State.offerFunction, opFunction_of_decode_error hd]

/-- A due head answered with the operation function is offered as the invariant asks. -/
theorem offersHead_offerFunction {s : State} {e : Entry} {rest : List Entry} (hq : s.q = e :: rest)
    (hw : e.wait = 0) : offersHead (s.offerFunction e) :=
  fun _ => ⟨e, rest, hq, hw, rfl, fun hclean =>
    resultFor_clean (s := s) hclean fun a => (opFunction Config.env s.pins.cfg e.op a).1⟩

/-- A response held over an edge is still its head's: the error bit needs no configuration, and the result is claimed only
where the configuration stayed (R333, R334). -/
theorem offersHead_clockEdge {s : State} (hs : offersHead s) : offersHead (clockEdge s) := by
  intro hv
  have hheld : holdsResponse s = true := hv
  obtain ⟨e, rest, hq, hw, herr, hy⟩ := hs ((holdsResponse_iff s).1 hheld).1
  obtain ⟨rest', hq'⟩ := nextQueue_of_holdsResponse hheld hq
  refine ⟨_, rest', hq', by simp [Entry.tick, hw], ?_, fun hclean => ?_⟩
  · rw [clockEdge_rspErr, nextRspErr_of_holdsResponse hheld, herr]
    exact opFunction_err_eq _ _ _ _ _ _ _
  · obtain ⟨hspoiled, hsame⟩ := Bool.or_eq_false_iff.1 hclean
    rw [clockEdge_rspY, nextRspY_of_holdsResponse hheld hsame, hy hspoiled, clockEdge_pins,
      nextPins_cfg_of_not_changes hsame]
    rfl

theorem step_quietInReset {s t : State} (h : step s = .next t) : quietInReset t := by
  intro hreset
  obtain ⟨hpins, hready, -, -, -, -, -⟩ := step_frame h
  refine ⟨by rw [hready, nextReqReady_of_reset (hpins ▸ hreset)], ?_⟩
  rcases step_edge_or_offerFunction s with ⟨-, hs⟩ | ⟨e, rest, -, hr, -, -⟩
  · cases hs.symm.trans h
    rw [clockEdge_pins] at hreset
    simp [holdsResponse, hreset]
  · rw [clockEdge_pins, ← hpins, hreset] at hr
    cases hr

theorem step_withinCapacity {s t : State} (hs : withinCapacity s) (h : step s = .next t) : withinCapacity t := by
  obtain ⟨-, hready, hq, -, -, -, -⟩ := step_frame h
  unfold withinCapacity
  rw [hready, hq]
  exact ⟨nextQueue_length_le hs, nextQueue_length_lt_of_ready⟩

theorem step_patienceKept {s t : State} (hs : patienceKept s) (h : step s = .next t) : patienceKept t := by
  obtain ⟨-, -, -, -, hheld, -, -⟩ := step_frame h
  unfold patienceKept
  rw [hheld]
  exact nextHeld_le hs

theorem step_offersHead {s t : State} (hs : offersHead s) (h : step s = .next t) : offersHead t := by
  rcases step_edge_or_offerFunction s with ⟨-, hedge⟩ | ⟨e, rest, hq, -, hw, hoffer⟩
  · cases hedge.symm.trans h
    exact offersHead_clockEdge hs
  · cases hoffer.symm.trans h
    exact offersHead_offerFunction hq hw

theorem step_offersInTime {s t : State} (h : step s = .next t) : offersInTime t := by
  intro hr hv e rest hq
  rcases step_edge_or_offerFunction s with ⟨hnone, hedge⟩ | ⟨e', rest', -, -, -, hoffer⟩
  · cases hedge.symm.trans h
    exact wait_pos_of_fetch_none hnone hr hv hq
  · cases hoffer.symm.trans h
    cases hv

theorem step_keeps_unitInv {s t : State} (hs : UnitInv s) (h : step s = .next t) : UnitInv t where
  quiet := step_quietInReset h
  capacity := step_withinCapacity hs.capacity h
  patience := step_patienceKept hs.patience h
  head := step_offersHead hs.head h
  inTime := step_offersInTime h

/-- The unit has no trap (R305): every step gives a next state. -/
theorem exists_step_eq_next (s : State) : ∃ t, step s = .next t := by
  rcases step_edge_or_offerFunction s with ⟨-, h⟩ | ⟨e, rest, -, -, -, h⟩
  · exact ⟨_, h⟩
  · exact ⟨_, h⟩

/-- Settles O8: the invariant's clauses one by one, over the two things a step can do. -/
theorem stepKeepsUnitInv : Obligations.StepKeepsUnitInv :=
  fun _ _ hs h => step_keeps_unitInv hs h

/-- Settles O10: the queue's equation at an edge, and the head clause of the invariant in the next state. -/
theorem queueIsFirstInFirstOut : Obligations.QueueIsFirstInFirstOut := by
  intro s hs hr hb
  obtain ⟨t, ht⟩ := exists_step_eq_next s
  obtain ⟨-, -, hq, -, -, -, -⟩ := step_frame ht
  refine ⟨t, ht, ?_, fun hv => ?_⟩
  · rw [requests, hq, map_request_nextQueue hr hb]
  · obtain ⟨e, rest, hqt, -, herr, hy⟩ := (step_keeps_unitInv hs ht).head hv
    exact ⟨e, rest, hqt, fun hclean => Prod.ext (hy hclean) herr⟩

/-- Settles O15: a due head is what is fetched, and its word is what is decoded. -/
theorem stepRunsTheDecodedOperation : Obligations.StepRunsTheDecodedOperation := by
  intro s e rest i hq hr hv hw hd
  have hfetch : fetch (clockEdge s) = some [e.op] := (fetch_eq_some_iff _ _).2 ⟨e, rest, hq, hr, hv, hw, rfl⟩
  refine ⟨instr_wellFormed i, ?_⟩
  unfold step
  simp only [hfetch, hd]

end Sys2Proof.Machine
end

section
/-! Lane by lane (10_state.md R30): a shift of a whole vector acts in each lane alone, on either path, so every binary32
dataflow does. -/

namespace Sys2Proof.Machine

theorem shiftSplit_apply (f : W32 → W32) (v : Lanes32) (k : Fin 8) : shiftSplit f v k = f (v k) := by
  unfold shiftSplit reassemble
  split
  next => rfl
  next hk =>
    have hlane : (⟨4 + (k.val - 4), by omega⟩ : Fin 8) = k := Fin.ext (by simp only; omega)
    simp only [highHalf, hlane]

theorem vshl_apply (wide : Bool) (v : Lanes32) (n : Nat) (k : Fin 8) : vshl wide v n k = shl (v k) n := by
  unfold vshl
  split
  · rfl
  · exact shiftSplit_apply _ v k

theorem vshr_apply (wide : Bool) (v : Lanes32) (n : Nat) (k : Fin 8) : vshr wide v n k = shr (v k) n := by
  unfold vshr
  split
  · rfl
  · exact shiftSplit_apply _ v k

/-- `expo_f` (R128) in one lane. -/
theorem expoF_apply (wide : Bool) (x : Lanes32) (k : Fin 8) :
    expoF wide x k = cvtI2F (shr (castF2I (x k)) 23) :=
  congrArg cvtI2F (vshr_apply wide _ 23 k)

/-- `pow2_f` (R129) in one lane. -/
theorem pow2F_apply (wide : Bool) (m : Lanes32) (k : Fin 8) :
    pow2F wide m k = castI2F (shl (iadd (cvttF2I (m k)) 127) 23) :=
  congrArg castI2F (vshl_apply wide _ 23 k)

/-- `sflip` (R130) in one lane. -/
theorem sflip_apply (wide : Bool) (s : Lanes32) (k : Fin 8) :
    sflip wide s k = shl (vand (cvttF2I (s k)) 1) 31 :=
  vshl_apply wide _ 31 k

section
variable (est : W32 → W32) (cfg : Cfg) (d : Fin 8 → Draws32) {a b : Lanes32} {k : Fin 8}

theorem psinLanes_congr (h : a k = b k) : psinLanes cfg d a k = psinLanes cfg d b k := by
  simp only [psinLanes, sflip_apply, h]

theorem plogLanes_congr (h : a k = b k) : plogLanes cfg d a k = plogLanes cfg d b k := by
  simp only [plogLanes, rrLog, expoF_apply, h]

theorem pexpLanes_congr (h : a k = b k) : pexpLanes cfg d a k = pexpLanes cfg d b k := by
  simp only [pexpLanes, expValue, pow2F_apply, h]

theorem psqrtLanes_congr (h : a k = b k) : psqrtLanes est cfg d a k = psqrtLanes est cfg d b k := by
  simp only [psqrtLanes, h]

theorem prsqrtLanes_congr (h : a k = b k) : prsqrtLanes est cfg d a k = prsqrtLanes est cfg d b k := by
  simp only [prsqrtLanes, h]

end

/-- The binary32 half of R30. -/
theorem lanes32_resultOf_congr (env : Env) (cfg : Cfg) {i : Instr} {a b : Vec} {k : Fin 8} (h1 : i ≠ .psqrtF64)
    (h2 : i ≠ .prsqrtF64) (h : lanes32 a k = lanes32 b k) :
    lanes32 (resultOf env cfg i a) k = lanes32 (resultOf env cfg i b) k := by
  cases i with
  | psinF32 => simpa only [resultOf, lanes32_psinVec] using psinLanes_congr cfg _ h
  | plogF32 => simpa only [resultOf, lanes32_plogVec] using plogLanes_congr cfg _ h
  | pexpF32 => simpa only [resultOf, lanes32_pexpVec] using pexpLanes_congr cfg _ h
  | psqrtF32 => simpa only [resultOf, lanes32_psqrt32Vec] using psqrtLanes_congr env.est cfg _ h
  | prsqrtF32 => simpa only [resultOf, lanes32_prsqrt32Vec] using prsqrtLanes_congr env.est cfg _ h
  | psqrtF64 => exact absurd rfl h1
  | prsqrtF64 => exact absurd rfl h2

/-- The binary64 half of R30. -/
theorem lanes64_resultOf_congr (env : Env) (cfg : Cfg) {i : Instr} {a b : Vec} {k : Fin 4}
    (hi : i = .psqrtF64 ∨ i = .prsqrtF64) (h : lanes64 a k = lanes64 b k) :
    lanes64 (resultOf env cfg i a) k = lanes64 (resultOf env cfg i b) k := by
  rcases hi with rfl | rfl
  · simp only [resultOf, lanes64_psqrt64Vec, h]
  · simp only [resultOf, lanes64_prsqrt64Vec, h]

/-- Settles O28: each dataflow lane by lane, and an answer reads only the head and the configuration. -/
theorem lanesAreIndependent : Obligations.LanesAreIndependent := by
  refine ⟨fun env cfg i a b k h1 h2 h => lanes32_resultOf_congr env cfg h1 h2 h,
    fun env cfg i a b k hi h => lanes64_resultOf_congr env cfg hi h, ?_⟩
  intro i s t e rest rest' hs ht hclean hcfg
  refine ⟨_, _, exec_cons hs i, exec_cons ht i, ?_⟩
  rw [offer_rspY, offer_rspY, resultFor_clean hclean, resultFor_clean hclean, hcfg]

end Sys2Proof.Machine
end

section
/-! Lanes and bytes of a vector (20_memory.md R52): both are windows of its bits, and a byte of a lane is a window inside
a window. -/

namespace Sys2Proof.Machine

/-- A window of a window: the starts add up, as long as the inner window ends inside the outer one. -/
theorem extractLsb'_extractLsb'_of_add_le {n : Nat} (x : BitVec n) {start len start' len' : Nat}
    (h : start' + len' ≤ len) :
    (x.extractLsb' start len).extractLsb' start' len' = x.extractLsb' (start + start') len' := by
  apply BitVec.eq_of_getLsbD_eq
  intro j hj
  have hin : start' + j < len := by omega
  simp only [BitVec.getLsbD_extractLsb', hj, hin, decide_true, Bool.true_and, Nat.add_assoc]

/-- The binary32 lanes of R52: byte `j` of lane `i` is byte `4i + j` of the vector. -/
theorem extractLsb'_lanes32 (v : Vec) (i : Fin 8) (j : Fin 4) :
    (lanes32 v i).extractLsb' (8 * j.val) 8 = byteOf v (4 * i.val + j.val) := by
  have hin : 8 * j.val + 8 ≤ 32 := by omega
  have hstart : 32 * i.val + 8 * j.val = 8 * (4 * i.val + j.val) := by omega
  rw [lanes32, extractLsb'_extractLsb'_of_add_le v hin, hstart, byteOf]

/-- The binary64 lanes of R52: byte `j` of lane `i` is byte `8i + j` of the vector. -/
theorem extractLsb'_lanes64 (v : Vec) (i : Fin 4) (j : Fin 8) :
    (lanes64 v i).extractLsb' (8 * j.val) 8 = byteOf v (8 * i.val + j.val) := by
  have hin : 8 * j.val + 8 ≤ 64 := by omega
  have hstart : 64 * i.val + 8 * j.val = 8 * (8 * i.val + j.val) := by omega
  rw [lanes64, extractLsb'_extractLsb'_of_add_le v hin, hstart, byteOf]

/-- Settles O5: a byte is a window by definition, and a byte of a lane is the window at the sum of the two starts. -/
theorem lanesAreLittleEndianBytes : Obligations.LanesAreLittleEndianBytes :=
  fun v => ⟨fun _ => rfl, fun i j => (extractLsb'_lanes32 v i j).symm, fun i j => (extractLsb'_lanes64 v i j).symm⟩

end Sys2Proof.Machine
end

section
/-! The fields of an operation word (30_encoding.md R70): a word is the concatenation of its fields, and its fields are
the digits of its number. -/

namespace Sys2Proof.Machine

theorem opFields_func_toNat (w : OpWord) : (opFields w).func.toNat = w.toNat % 8 := by
  simp [opFields]

theorem opFields_prec_toNat (w : OpWord) : (opFields w).prec.toNat = w.toNat / 8 % 2 := by
  simp [opFields, Nat.shiftRight_eq_div_pow]

theorem opFields_rsv_toNat (w : OpWord) : (opFields w).rsv.toNat = w.toNat / 16 := by
  have hw : w.toNat / 16 < 16 := by omega
  simp [opFields, Nat.shiftRight_eq_div_pow, Nat.mod_eq_of_lt hw]

theorem fieldsWord_toNat (f : OpFields) :
    (fieldsWord f).toNat = 16 * f.rsv.toNat + 8 * f.prec.toNat + f.func.toNat := by
  have hword := BitVec.toNat_append (f.rsv ++ f.prec) f.func
  have hhigh := BitVec.toNat_append f.rsv f.prec
  rw [← Nat.shiftLeft_add_eq_or_of_lt f.prec.isLt, Nat.shiftLeft_eq] at hhigh
  rw [← Nat.shiftLeft_add_eq_or_of_lt f.func.isLt, Nat.shiftLeft_eq, hhigh] at hword
  rw [fieldsWord, hword]
  ring

theorem fields_ext {f g : OpFields} (hfunc : f.func = g.func) (hprec : f.prec = g.prec) (hrsv : f.rsv = g.rsv) :
    f = g := by
  obtain ⟨func, prec, rsv⟩ := f
  cases hfunc
  cases hprec
  cases hrsv
  rfl

/-- R70 read backwards: the fields of a word put together from fields are those. -/
theorem opFields_fieldsWord (f : OpFields) : opFields (fieldsWord f) = f := by
  have hword := fieldsWord_toNat f
  have hfunc : (opFields (fieldsWord f)).func = f.func :=
    BitVec.eq_of_toNat_eq (by rw [opFields_func_toNat]; omega)
  have hprec : (opFields (fieldsWord f)).prec = f.prec :=
    BitVec.eq_of_toNat_eq (by rw [opFields_prec_toNat]; omega)
  have hrsv : (opFields (fieldsWord f)).rsv = f.rsv :=
    BitVec.eq_of_toNat_eq (by rw [opFields_rsv_toNat]; omega)
  exact fields_ext hfunc hprec hrsv

/-- R70: every word is put together from its fields, none of its bits being outside them. -/
theorem fieldsWord_opFields (w : OpWord) : fieldsWord (opFields w) = w := by
  apply BitVec.eq_of_toNat_eq
  rw [fieldsWord_toNat, opFields_rsv_toNat, opFields_prec_toNat, opFields_func_toNat]
  omega

theorem opFields_eq_iff (w : OpWord) (f : OpFields) : opFields w = f ↔ w = fieldsWord f := by
  constructor
  · rintro rfl
    exact (fieldsWord_opFields w).symm
  · rintro rfl
    exact opFields_fieldsWord f

end Sys2Proof.Machine
end

section
/-! The decoder on fields (30_encoding.md R71 to R73, R75, R76): well-formed fields are those of one of the seven
operations, and each way not to be well formed has its own reason. -/

namespace Sys2Proof.Machine

/-- The three ways of R76 in which fields name no operation. -/
theorem wellFormed_eq_false_iff (f : OpFields) :
    f.wellFormed = false ↔
      (f.rsv.toNat ≠ 0 ∨ 5 ≤ f.func.toNat ∨ (f.prec.toNat = 1 ∧ f.func.toNat ≤ 2)) := by
  simp only [OpFields.wellFormed, OpFields.rsvZero, OpFields.funcNamed, OpFields.precAllowed, Bool.and_eq_false_iff,
    Bool.or_eq_false_iff, beq_eq_false_iff_ne, decide_eq_false_iff_not]
  bv_omega

theorem decodeFields_fields (i : Instr) : decodeFields i.fields = .ok i := by
  cases i <;> rfl

theorem decodeFields_of_rsv {f : OpFields} (h : f.rsv ≠ 0) : decodeFields f = .error .reservedBits :=
  if_pos h

theorem decodeFields_of_func {f : OpFields} (hr : f.rsv = 0) (h : 5 ≤ f.func.toNat) :
    decodeFields f = .error .reservedFunc := by
  unfold decodeFields
  rw [if_neg (not_not_intro hr)]
  have hfunc : f.func.toNat = 5 ∨ f.func.toNat = 6 ∨ f.func.toNat = 7 := by omega
  rcases hfunc with h5 | h6 | h7
  · rw [h5]; rfl
  · rw [h6]; rfl
  · rw [h7]; rfl

theorem decodeFields_of_prec {f : OpFields} (hr : f.rsv = 0) (hp : f.prec.toNat = 1) (h : f.func.toNat ≤ 2) :
    decodeFields f = .error .noBinary64Form := by
  unfold decodeFields
  rw [if_neg (not_not_intro hr), hp]
  have hfunc : f.func.toNat = 0 ∨ f.func.toNat = 1 ∨ f.func.toNat = 2 := by omega
  rcases hfunc with h0 | h1 | h2
  · rw [h0]; rfl
  · rw [h1]; rfl
  · rw [h2]; rfl

theorem exists_decodeFields_eq_error {f : OpFields} (h : f.wellFormed = false) :
    ∃ err, decodeFields f = .error err := by
  by_cases hr : f.rsv = 0
  · rcases (wellFormed_eq_false_iff f).1 h with hrsv | hfunc | ⟨hprec, hfunc⟩
    · exact absurd (congrArg BitVec.toNat hr) hrsv
    · exact ⟨_, decodeFields_of_func hr hfunc⟩
    · exact ⟨_, decodeFields_of_prec hr hprec hfunc⟩
  · exact ⟨_, decodeFields_of_rsv hr⟩

/-- The table of R75 has a row for all well-formed fields: five functions on binary32 and two on binary64. -/
theorem exists_eq_fields_of_wellFormed {f : OpFields} (h : f.wellFormed = true) : ∃ i : Instr, f = i.fields := by
  obtain ⟨func, prec, rsv⟩ := f
  have hnot := (wellFormed_eq_false_iff ⟨func, prec, rsv⟩).not.1 (by simp [h])
  obtain ⟨hrsv, hle, hform⟩ : rsv.toNat = 0 ∧ func.toNat ≤ 4 ∧ (prec.toNat = 1 → 3 ≤ func.toNat) := by
    dsimp only at hnot
    omega
  obtain rfl : rsv = 0 := BitVec.eq_of_toNat_eq hrsv
  have hprec : prec = 0 ∨ prec = 1 := by bv_omega
  rcases hprec with rfl | rfl
  · have hfunc : func = 0 ∨ func = 1 ∨ func = 2 ∨ func = 3 ∨ func = 4 := by bv_omega
    rcases hfunc with rfl | rfl | rfl | rfl | rfl
    · exact ⟨.psinF32, rfl⟩
    · exact ⟨.plogF32, rfl⟩
    · exact ⟨.pexpF32, rfl⟩
    · exact ⟨.psqrtF32, rfl⟩
    · exact ⟨.prsqrtF32, rfl⟩
  · have hge : 3 ≤ func.toNat := hform rfl
    have hfunc : func = 3 ∨ func = 4 := by bv_omega
    rcases hfunc with rfl | rfl
    · exact ⟨.psqrtF64, rfl⟩
    · exact ⟨.prsqrtF64, rfl⟩

theorem decodeFields_eq_ok_iff (f : OpFields) (i : Instr) : decodeFields f = .ok i ↔ f = i.fields := by
  constructor
  · intro h
    cases hwf : f.wellFormed with
    | false =>
      obtain ⟨err, herr⟩ := exists_decodeFields_eq_error hwf
      cases herr.symm.trans h
    | true =>
      obtain ⟨j, rfl⟩ := exists_eq_fields_of_wellFormed hwf
      cases (decodeFields_fields j).symm.trans h
      rfl
  · rintro rfl
    exact decodeFields_fields i

end Sys2Proof.Machine
end

section
/-! The decoder on words (30_encoding.md R75, R76, R78): it inverts the encoder, and the words it accepts are the legal
ones. -/

namespace Sys2Proof.Machine

theorem decodeWord_fieldsWord (f : OpFields) : decodeWord (fieldsWord f) = decodeFields f := by
  rw [decodeWord, opFields_fieldsWord]

/-- A word decodes to an operation exactly when it is that operation's word: no operation has two words (R75). -/
theorem decodeWord_eq_ok_iff (w : OpWord) (i : Instr) : decodeWord w = .ok i ↔ w = encodeWord i :=
  (decodeFields_eq_ok_iff _ _).trans (opFields_eq_iff _ _)

theorem decodeWord_encodeWord (i : Instr) : decodeWord (encodeWord i) = .ok i :=
  (decodeWord_eq_ok_iff _ _).2 rfl

theorem legal_iff_exists_encodeWord (w : OpWord) : legal w = true ↔ ∃ i, w = encodeWord i := by
  constructor
  · intro h
    obtain ⟨i, hi⟩ := exists_eq_fields_of_wellFormed h
    exact ⟨i, (opFields_eq_iff _ _).1 hi⟩
  · rintro ⟨i, rfl⟩
    rw [legal, encodeWord, opFields_fieldsWord]
    exact instr_wellFormed i

theorem exists_decodeWord_eq_ok_iff (w : OpWord) : (∃ i, decodeWord w = .ok i) ↔ legal w = true := by
  simp only [decodeWord_eq_ok_iff, legal_iff_exists_encodeWord]

theorem exists_decodeWord_eq_error {w : OpWord} (h : legal w = false) : ∃ err, decodeWord w = .error err :=
  exists_decodeFields_eq_error h

/-- R76 in the digits of the word's number: `RSV` is its quotient by 16, `FUNC` its remainder by 8, `PREC` the bit between. -/
theorem legal_eq_false_iff (w : OpWord) :
    legal w = false ↔ (w.toNat / 16 ≠ 0 ∨ 5 ≤ w.toNat % 8 ∨ (w.toNat / 8 % 2 = 1 ∧ w.toNat % 8 ≤ 2)) := by
  rw [legal, wellFormed_eq_false_iff, opFields_rsv_toNat, opFields_func_toNat, opFields_prec_toNat]

/-- The words of the seven operations, in the order of the table of R75. -/
theorem exists_eq_encodeWord_iff_mem (w : OpWord) :
    (∃ i, w = encodeWord i) ↔ w ∈ [0x00, 0x01, 0x02, 0x03, 0x04, 0x0B, 0x0C] := by
  constructor
  · rintro ⟨i, rfl⟩
    cases i <;> decide
  · intro h
    simp only [List.mem_cons, List.not_mem_nil, or_false] at h
    rcases h with rfl | rfl | rfl | rfl | rfl | rfl | rfl
    · exact ⟨.psinF32, rfl⟩
    · exact ⟨.plogF32, rfl⟩
    · exact ⟨.pexpF32, rfl⟩
    · exact ⟨.psqrtF32, rfl⟩
    · exact ⟨.prsqrtF32, rfl⟩
    · exact ⟨.psqrtF64, rfl⟩
    · exact ⟨.prsqrtF64, rfl⟩

/-- The count of R76: the 240 words from 16 on have `RSV ≠ 0`, and 9 of the 16 below are illegal. -/
theorem length_filter_illegal :
    ((List.range 256).filter (fun n => !legal (BitVec.ofNat 8 n))).length = 249 := by
  have hlow : ((List.range 16).filter (fun n => !legal (BitVec.ofNat 8 n))).length = 9 := by decide
  have hhigh : ∀ n ∈ (List.range 240).map (16 + ·), (!legal (BitVec.ofNat 8 n)) = true := by
    intro n hn
    obtain ⟨k, hk, rfl⟩ := List.mem_map.1 hn
    have hk240 : k < 240 := List.mem_range.1 hk
    have hill : legal (BitVec.ofNat 8 (16 + k)) = false := by
      rw [legal_eq_false_iff, BitVec.toNat_ofNat]
      omega
    rw [hill, Bool.not_false]
  rw [show 256 = 16 + 240 from rfl, List.range_add, List.filter_append, List.filter_eq_self.2 hhigh, List.length_append,
    hlow, List.length_map, List.length_range]

/-- Settles O1: the word of an operation decodes to it, and the decoder reads one byte. -/
theorem decodeOfEncodeIsTheInstruction : Obligations.DecodeOfEncodeIsTheInstruction :=
  fun i rest => ⟨instr_wellFormed i, decode_cons_ok (decodeWord_encodeWord i) rest⟩

/-- Settles O2: each row decodes because its word is the operation's, and the legal words are the operations' words. -/
theorem legalWordsAreTheSeven : Obligations.LegalWordsAreTheSeven :=
  ⟨⟨decodeWord_encodeWord .psinF32, decodeWord_encodeWord .plogF32, decodeWord_encodeWord .pexpF32,
      decodeWord_encodeWord .psqrtF32, decodeWord_encodeWord .prsqrtF32, decodeWord_encodeWord .psqrtF64,
      decodeWord_encodeWord .prsqrtF64⟩,
    fun w => ⟨(legal_iff_exists_encodeWord w).trans (exists_eq_encodeWord_iff_mem w), exists_decodeWord_eq_ok_iff w⟩⟩

/-- Settles O3: the reasons of R76 read off the word's number, and an illegal word decodes to no operation. -/
theorem illegalWordsByTheirFields : Obligations.IllegalWordsByTheirFields := by
  refine ⟨legal_eq_false_iff, length_filter_illegal, fun env cfg w a h => ?_⟩
  obtain ⟨err, herr⟩ := exists_decodeWord_eq_error h
  exact opFunction_of_decode_error herr env cfg a

/-- Settles O4: the words are put together from their fields, so the decoder's rule for those fields applies. -/
theorem writtenOutWordsDecode : Obligations.WrittenOutWordsDecode := by
  refine ⟨decode_cons_ok (decodeWord_encodeWord .pexpF32) [], decode_cons_ok (decodeWord_encodeWord .prsqrtF64) [],
    decode_cons_error ?_ [], decode_cons_error ?_ [], decode_cons_error ?_ []⟩
  · exact (decodeWord_fieldsWord ⟨0b000, 0b1, 0b0000⟩).trans (decodeFields_of_prec rfl rfl (by decide))
  · exact (decodeWord_fieldsWord ⟨0b101, 0b0, 0b0000⟩).trans (decodeFields_of_func rfl (by decide))
  · exact (decodeWord_fieldsWord ⟨0b011, 0b0, 0b0001⟩).trans (decodeFields_of_rsv (by decide))

end Sys2Proof.Machine
end

section
/-! Patterns of either format (40_lane_primitives.md R101): binary32 and binary64 read and packed by one set of
lemmas, over a format `f` whose pattern has `k` bits below its sign. -/

namespace Sys2Proof.Machine

/-- What the lemmas below ask of a format with `k` bits below the sign. The bound on its fraction bits leaves room
below a significand for the 64 bits of a quotient or a root. -/
structure Fmt.Fits (f : Fmt) (k : Nat) : Prop where
  width : f.fbits + f.ebits = k
  fbits_pos : 1 ≤ f.fbits
  fbits_le : f.fbits ≤ 61
  ebits_ge : 2 ≤ f.ebits

theorem b32_fits : b32.Fits 31 := ⟨rfl, by decide, by decide, by decide⟩

theorem b64_fits : b64.Fits 63 := ⟨rfl, by decide, by decide, by decide⟩

/-- The bits of a pattern below its sign (`mag32`, `mag64`). -/
def magOf {k : Nat} (w : BitVec (k + 1)) : Nat := w.toNat % 2 ^ k

/-- A pattern as a datum (`datum32`, `datum64`). -/
def Fmt.datumOf (f : Fmt) {k : Nat} (w : BitVec (k + 1)) : Datum := f.datum w.msb (magOf w)

/-- The pattern with a sign and the bits below it (`pack32`, `pack64`). -/
def packOf (k : Nat) (neg : Bool) (mag : Nat) : BitVec (k + 1) :=
  BitVec.ofNat (k + 1) (mag + if neg then 2 ^ k else 0)

/-- An exact result as a pattern, or the NaN pattern given (`finish32`, `finish64`). -/
def Fmt.finishOf (f : Fmt) {k : Nat} (nan : BitVec (k + 1)) : Datum → BitVec (k + 1)
  | .nan => nan
  | .inf neg => packOf k neg f.infMag
  | .fin neg n e => packOf k neg (f.roundMag n e)

theorem datum32_eq (w : W32) : datum32 w = b32.datumOf (k := 31) w := rfl

theorem datum64_eq (w : W64) : datum64 w = b64.datumOf (k := 63) w := rfl

theorem pack32_eq (s : Bool) (m : Nat) : pack32 s m = packOf 31 s m := rfl

theorem pack64_eq (s : Bool) (m : Nat) : pack64 s m = packOf 63 s m := rfl

theorem finish32_eq (x : NaN32) (r : Datum) : finish32 x r = b32.finishOf (bitsOfNaN32 x) r := by
  cases r with
  | nan => rfl
  | inf s => exact pack32_eq s b32.infMag
  | fin s n e => exact pack32_eq s (b32.roundMag n e)

theorem finish64_eq (x : NaN64) (r : Datum) : finish64 x r = b64.finishOf (bitsOfNaN64 x) r := by
  cases r with
  | nan => rfl
  | inf s => exact pack64_eq s b64.infMag
  | fin s n e => exact pack64_eq s (b64.roundMag n e)

/-- The significand of a finite pattern with the bits `m` below its sign: a normal one has its leading bit put back.
-/
def Fmt.sig (f : Fmt) (m : Nat) : Nat :=
  if m / 2 ^ f.fbits = 0 then m % 2 ^ f.fbits else 2 ^ f.fbits + m % 2 ^ f.fbits

/-- The exponent of the lowest significand bit of such a pattern. -/
def Fmt.lowExp (f : Fmt) (m : Nat) : Int :=
  if m / 2 ^ f.fbits = 0 then f.emin else f.emin + (m / 2 ^ f.fbits : Nat) - 1

variable {f : Fmt} {k : Nat}

theorem magOf_lt (w : BitVec (k + 1)) : magOf w < 2 ^ k := Nat.mod_lt _ (Nat.two_pow_pos k)

theorem Fmt.Fits.infMag_lt (hf : f.Fits k) : f.infMag < 2 ^ k := by
  have he := Nat.two_pow_pos f.ebits
  calc f.infMag < 2 ^ f.ebits * 2 ^ f.fbits :=
        Nat.mul_lt_mul_of_pos_right (by unfold Fmt.expMax; omega) (Nat.two_pow_pos _)
    _ = 2 ^ k := by rw [← pow_add, Nat.add_comm, hf.width]

theorem toNat_packOf (s : Bool) {m : Nat} (h : m < 2 ^ k) :
    (packOf k s m).toNat = m + if s then 2 ^ k else 0 := by
  rw [packOf, BitVec.toNat_ofNat, Nat.mod_eq_of_lt]
  rw [Nat.pow_succ]
  split <;> omega

theorem packOf_msb (s : Bool) {m : Nat} (h : m < 2 ^ k) : (packOf k s m).msb = s := by
  rw [BitVec.msb_eq_decide, toNat_packOf s h, Nat.add_sub_cancel]
  cases s
  · simpa using h
  · simp

theorem magOf_packOf (s : Bool) {m : Nat} (h : m < 2 ^ k) : magOf (packOf k s m) = m := by
  rw [magOf, toNat_packOf s h]
  cases s
  · simpa using Nat.mod_eq_of_lt h
  · simpa using Nat.mod_eq_of_lt h

theorem datumOf_packOf (f : Fmt) (s : Bool) {m : Nat} (h : m < 2 ^ k) :
    f.datumOf (packOf k s m) = f.datum s m := by
  rw [Fmt.datumOf, packOf_msb s h, magOf_packOf s h]

/-- A pattern is its sign and the bits below it. -/
theorem packOf_msb_magOf (w : BitVec (k + 1)) : packOf k w.msb (magOf w) = w := by
  apply BitVec.eq_of_toNat_eq
  have hw := w.isLt
  rw [toNat_packOf _ (magOf_lt w), magOf, BitVec.msb_eq_decide, Nat.add_sub_cancel]
  rw [Nat.pow_succ] at hw
  rcases Nat.lt_or_ge w.toNat (2 ^ k) with h | h
  · simp [Nat.mod_eq_of_lt h, Nat.not_le_of_lt h]
  · rw [Nat.mod_eq_sub_mod h, Nat.mod_eq_of_lt (by omega)]
    simp only [h, decide_true, if_true]
    omega

theorem datum_of_lt (f : Fmt) (s : Bool) {m : Nat} (h : m < f.infMag) :
    f.datum s m = .fin s (f.sig m) (f.lowExp m) := by
  have hex : m / 2 ^ f.fbits ≠ f.expMax := (Nat.div_lt_of_lt_mul (by rwa [Nat.mul_comm])).ne
  simp only [Fmt.datum, Fmt.sig, Fmt.lowExp, hex, if_false]
  split <;> rfl

theorem datum_of_eq (f : Fmt) (s : Bool) : f.datum s f.infMag = .inf s := by
  simp [Fmt.datum, Fmt.infMag]

theorem Fmt.Fits.datum_of_gt (hf : f.Fits k) (s : Bool) {m : Nat} (h : f.infMag < m) (hm : m < 2 ^ k) :
    f.datum s m = .nan := by
  have hlt : m < (f.expMax + 1) * 2 ^ f.fbits := by
    have he := Nat.two_pow_pos f.ebits
    rwa [Fmt.expMax, Nat.sub_add_cancel he, ← pow_add, Nat.add_comm, hf.width]
  have hex : m / 2 ^ f.fbits = f.expMax := (Nat.div_eq_iff (Nat.two_pow_pos _)).2 ⟨h.le, by
    rw [Nat.add_mul, Nat.one_mul] at hlt
    omega⟩
  have hfrac : m % 2 ^ f.fbits ≠ 0 := by
    have hdm := Nat.div_add_mod m (2 ^ f.fbits)
    rw [hex, Nat.mul_comm] at hdm
    unfold Fmt.infMag at h
    omega
  simp [Fmt.datum, hex, hfrac]

/-- The classes of R101 by the bits below the sign. -/
theorem Fmt.Fits.datumOf_cases (hf : f.Fits k) (w : BitVec (k + 1)) :
    (magOf w < f.infMag ∧ f.datumOf w = .fin w.msb (f.sig (magOf w)) (f.lowExp (magOf w))) ∨
      (magOf w = f.infMag ∧ f.datumOf w = .inf w.msb) ∨ (f.infMag < magOf w ∧ f.datumOf w = .nan) := by
  rcases Nat.lt_trichotomy (magOf w) f.infMag with h | h | h
  · exact .inl ⟨h, datum_of_lt f _ h⟩
  · exact .inr (.inl ⟨h, by rw [Fmt.datumOf, h, datum_of_eq]⟩)
  · exact .inr (.inr ⟨h, hf.datum_of_gt _ h (magOf_lt w)⟩)

/-- A finite datum of a pattern has its sign, its significand and its exponent. -/
theorem Fmt.Fits.of_datumOf_fin (hf : f.Fits k) {w : BitVec (k + 1)} {s : Bool} {n : Nat} {e : Int}
    (h : f.datumOf w = .fin s n e) :
    magOf w < f.infMag ∧ s = w.msb ∧ n = f.sig (magOf w) ∧ e = f.lowExp (magOf w) := by
  rcases hf.datumOf_cases w with ⟨hlt, hd⟩ | ⟨-, hd⟩ | ⟨-, hd⟩ <;> rw [h] at hd
  · cases hd
    exact ⟨hlt, rfl, rfl, rfl⟩
  · cases hd
  · cases hd

/-- Only one pattern has the datum of an infinity. -/
theorem Fmt.Fits.eq_packOf_of_inf (hf : f.Fits k) {w : BitVec (k + 1)} {s : Bool} (h : f.datumOf w = .inf s) :
    s = w.msb ∧ packOf k s f.infMag = w := by
  rcases hf.datumOf_cases w with ⟨-, hd⟩ | ⟨hm, hd⟩ | ⟨-, hd⟩ <;> rw [h] at hd
  · cases hd
  · cases hd
    exact ⟨rfl, by rw [← hm, packOf_msb_magOf]⟩
  · cases hd

theorem sig_eq_zero_iff (f : Fmt) (m : Nat) : f.sig m = 0 ↔ m = 0 := by
  have hp := Nat.two_pow_pos f.fbits
  have hdm := Nat.div_add_mod m (2 ^ f.fbits)
  unfold Fmt.sig
  split
  next h => rw [h, Nat.mul_zero, Nat.zero_add] at hdm; omega
  next h =>
    constructor
    · omega
    · rintro rfl
      simp at h

theorem sig_lt (f : Fmt) (m : Nat) : f.sig m < 2 ^ (f.fbits + 1) := by
  have hm := Nat.mod_lt m (Nat.two_pow_pos f.fbits)
  rw [pow_succ]
  unfold Fmt.sig
  split <;> omega

/-- A number's pattern is the zero of its sign exactly when its significand is 0. -/
theorem Fmt.Fits.eq_packOf_zero_iff (hf : f.Fits k) {w : BitVec (k + 1)} {s : Bool} {n : Nat} {e : Int}
    (h : f.datumOf w = .fin s n e) (t : Bool) : w = packOf k t 0 ↔ s = t ∧ n = 0 := by
  obtain ⟨-, rfl, rfl, rfl⟩ := hf.of_datumOf_fin h
  have h0 : 0 < 2 ^ k := Nat.two_pow_pos k
  rw [sig_eq_zero_iff]
  constructor
  · intro hw
    rw [hw]
    exact ⟨packOf_msb t h0, magOf_packOf t h0⟩
  · rintro ⟨hs, hm⟩
    rw [← packOf_msb_magOf w, hs, hm]

theorem roundMag_lt (hf : f.Fits k) (n : Nat) (e : Int) : f.roundMag n e < 2 ^ k :=
  (roundMag_le f n e).trans_lt hf.infMag_lt

/-- A finished number has the exact result's sign. -/
theorem Fmt.Fits.finishOf_fin_msb (hf : f.Fits k) (nan : BitVec (k + 1)) (s : Bool) (n : Nat) (e : Int) :
    (f.finishOf nan (.fin s n e)).msb = s :=
  packOf_msb s (roundMag_lt hf n e)

theorem Fmt.Fits.datumOf_finishOf_inf (hf : f.Fits k) (nan : BitVec (k + 1)) (s : Bool) :
    f.datumOf (f.finishOf nan (.inf s)) = .inf s :=
  (datumOf_packOf f s hf.infMag_lt).trans (datum_of_eq f s)

theorem roundMag_zero (f : Fmt) (e : Int) : f.roundMag 0 e = 0 := if_pos rfl

theorem finishOf_fin_zero (f : Fmt) (nan : BitVec (k + 1)) (s : Bool) (e : Int) :
    f.finishOf nan (.fin s 0 e) = packOf k s 0 := rfl

/-- Finishing the datum of an infinite pattern gives that pattern. -/
theorem Fmt.Fits.finishOf_inf (hf : f.Fits k) (nan : BitVec (k + 1)) {w : BitVec (k + 1)} {s : Bool}
    (h : f.datumOf w = .inf s) : f.finishOf nan (.inf s) = w :=
  (hf.eq_packOf_of_inf h).2

/-- A NaN draw on binary64 is a NaN (R109). -/
theorem datum64_bitsOfNaN64 (x : NaN64) : datum64 (bitsOfNaN64 x) = .nan := by
  have hx := x.fracLessOne.isLt
  have hinf : b64.infMag = 9218868437227405312 := by decide
  have hm : b64.infMag + (x.fracLessOne.val + 1) < 2 ^ 63 := by rw [hinf]; omega
  rw [bitsOfNaN64, pack64_eq, datum64_eq, datumOf_packOf b64 x.neg hm, b64_fits.datum_of_gt x.neg (by omega) hm]

theorem datum32_bitsOfNaN32 (x : NaN32) : datum32 (bitsOfNaN32 x) = .nan :=
  beq_iff_eq.1 (isNaN32_bitsOfNaN32 x)

end Sys2Proof.Machine
end

section
/-! The magnitudes of a format in order (R101): the finite ones, and past them the ones an unbounded exponent would
give. `Nearest` says which of them a real number rounds to, by the two midpoints around it. -/

namespace Sys2Proof.Machine

/-- The magnitude of the pattern with the bits `m` below its sign; from `infMag` on, as if the exponent field were
wider. -/
noncomputable def Fmt.grid (f : Fmt) (m : Nat) : ℝ := f.sig m * 2 ^ f.lowExp m

/-- `x` lies between the midpoints around the magnitude `R`, and on one of them only if `R` is even (R13). -/
structure Nearest (f : Fmt) (x : ℝ) (R : Nat) : Prop where
  upper : 2 * x ≤ f.grid R + f.grid (R + 1)
  upper_even : 2 * x = f.grid R + f.grid (R + 1) → R % 2 = 0
  lower : ∀ m, m + 1 = R → f.grid m + f.grid R ≤ 2 * x
  lower_even : ∀ m, m + 1 = R → f.grid m + f.grid R = 2 * x → R % 2 = 0

variable {f : Fmt}

@[simp] theorem grid_zero (f : Fmt) : f.grid 0 = 0 := by simp [Fmt.grid, Fmt.sig]

/-- A magnitude from the fields laid one above the other by addition, as the rounding does: `s` may fill the whole
significand and carry into the exponent. -/
theorem grid_mul_add (f : Fmt) {j s : Nat} (hs : s ≤ 2 ^ (f.fbits + 1)) (hj : j = 0 ∨ 2 ^ f.fbits ≤ s) :
    f.grid (j * 2 ^ f.fbits + s) = s * 2 ^ (f.emin + j) := by
  have hp := Nat.two_pow_pos f.fbits
  rw [Nat.pow_succ] at hs
  have hdiv : (j * 2 ^ f.fbits + s) / 2 ^ f.fbits = j + s / 2 ^ f.fbits := by
    rw [Nat.add_comm, Nat.add_mul_div_right _ _ hp, Nat.add_comm]
  have hmod : (j * 2 ^ f.fbits + s) % 2 ^ f.fbits = s % 2 ^ f.fbits := Nat.mul_add_mod_self_right _ _ _
  have hq : s / 2 ^ f.fbits = 0 ∧ s < 2 ^ f.fbits ∨ s / 2 ^ f.fbits = 1 ∧ 2 ^ f.fbits ≤ s ∨ s = 2 ^ f.fbits * 2 := by
    rcases Nat.lt_or_ge s (2 ^ f.fbits) with h | h
    · exact .inl ⟨Nat.div_eq_of_lt h, h⟩
    · rcases Nat.lt_or_eq_of_le hs with h' | h'
      · exact .inr (.inl ⟨Nat.div_eq_of_lt_le (by omega) (by omega), h⟩)
      · exact .inr (.inr h')
  unfold Fmt.grid Fmt.sig Fmt.lowExp
  rw [hdiv, hmod]
  rcases hq with ⟨h0, hlt⟩ | ⟨h1, hge⟩ | rfl
  · obtain rfl : j = 0 := by omega
    simp [h0, Nat.mod_eq_of_lt hlt]
  · have hm : 2 ^ f.fbits + s % 2 ^ f.fbits = s := by
      have hdm := Nat.div_add_mod s (2 ^ f.fbits)
      rwa [h1, Nat.mul_one] at hdm
    rw [h1, if_neg (Nat.succ_ne_zero j), if_neg (Nat.succ_ne_zero j), hm]
    congr 2
    push_cast
    ring
  · rw [Nat.mul_div_cancel_left _ hp, if_neg (by omega), if_neg (by omega), Nat.mul_mod_right]
    have he : f.emin + (j + 2 : Nat) - 1 = f.emin + j + 1 := by push_cast; ring
    rw [he, zpow_add_one₀ (by norm_num)]
    push_cast
    ring

/-- Every magnitude is laid out so, with room for one more in the same binade. -/
theorem exists_eq_mul_add (f : Fmt) (m : Nat) :
    ∃ j s, m = j * 2 ^ f.fbits + s ∧ s < 2 ^ (f.fbits + 1) ∧ (j = 0 ∨ 2 ^ f.fbits ≤ s) := by
  have hmod := Nat.mod_lt m (Nat.two_pow_pos f.fbits)
  have hdm := Nat.div_add_mod' m (2 ^ f.fbits)
  rw [Nat.pow_succ]
  cases hq : m / 2 ^ f.fbits with
  | zero => exact ⟨0, m, by omega, by rw [hq] at hdm; omega, .inl rfl⟩
  | succ j =>
    rw [hq, Nat.add_mul, Nat.one_mul] at hdm
    exact ⟨j, 2 ^ f.fbits + m % 2 ^ f.fbits, by omega, by omega, .inr (by omega)⟩

theorem grid_lt_succ (f : Fmt) (m : Nat) : f.grid m < f.grid (m + 1) := by
  obtain ⟨j, s, rfl, hs, hj⟩ := exists_eq_mul_add f m
  rw [grid_mul_add f hs.le hj, Nat.add_assoc, grid_mul_add f hs (hj.imp_right (Nat.le_succ_of_le ·))]
  have hpos : (0 : ℝ) < 2 ^ (f.emin + j) := by positivity
  push_cast
  nlinarith

theorem grid_strictMono (f : Fmt) : StrictMono f.grid := strictMono_nat_of_lt_succ (grid_lt_succ f)

theorem grid_nonneg (f : Fmt) (m : Nat) : 0 ≤ f.grid m := by unfold Fmt.grid; positivity

/-- The magnitude between the midpoints around `x` is the nearest one, and at a tie it is the even one. -/
theorem Nearest.abs_le {x : ℝ} {R : Nat} (h : Nearest f x R) (u : Nat) :
    |f.grid R - x| ≤ |f.grid u - x| ∧ (|f.grid R - x| = |f.grid u - x| → u = R ∨ R % 2 = 0) := by
  have hmono := grid_strictMono f
  rcases Nat.lt_trichotomy u R with hu | rfl | hu
  · obtain ⟨m, rfl⟩ : ∃ m, R = m + 1 := ⟨R - 1, by omega⟩
    have hum : f.grid u ≤ f.grid m := hmono.monotone (Nat.le_of_lt_succ hu)
    have hmR := grid_lt_succ f m
    have hlow := h.lower m rfl
    rw [abs_of_nonpos (a := f.grid u - x) (by linarith)]
    rcases le_total (f.grid (m + 1)) x with hx | hx
    · rw [abs_of_nonpos (by linarith)]
      exact ⟨by linarith, fun heq => by linarith⟩
    · rw [abs_of_nonneg (by linarith)]
      exact ⟨by linarith, fun heq => .inr (h.lower_even m rfl (by linarith))⟩
  · exact ⟨le_refl _, fun _ => .inl rfl⟩
  · have hRu : f.grid (R + 1) ≤ f.grid u := hmono.monotone hu
    have hR := grid_lt_succ f R
    have hup := h.upper
    rw [abs_of_nonneg (a := f.grid u - x) (by linarith)]
    rcases le_total (f.grid R) x with hx | hx
    · rw [abs_of_nonpos (by linarith)]
      exact ⟨by linarith, fun heq => .inr (h.upper_even (by linarith))⟩
    · rw [abs_of_nonneg (by linarith)]
      exact ⟨by linarith, fun heq => by linarith⟩

/-- A magnitude of the format rounds to itself. -/
theorem Nearest.eq_of_grid {u R : Nat} (h : Nearest f (f.grid u) R) : R = u := by
  have habs := (h.abs_le u).1
  rw [sub_self, abs_zero] at habs
  exact (grid_strictMono f).injective (sub_eq_zero.1 (abs_eq_zero.1 (le_antisymm habs (abs_nonneg _))))

theorem nearest_zero (f : Fmt) : Nearest f 0 0 where
  upper := by simpa using grid_nonneg f 1
  upper_even := fun _ => rfl
  lower := fun m hm => absurd hm (Nat.succ_ne_zero m)
  lower_even := fun m hm => absurd hm (Nat.succ_ne_zero m)

/-- The magnitude from which on a result is an infinity (R101, log 16): half way between the largest finite pattern
and the one after it. -/
noncomputable def Fmt.overflow (f : Fmt) : ℝ := (f.grid (f.infMag - 1) + f.grid f.infMag) / 2

theorem Fmt.Fits.infMag_pos {k : Nat} (hf : f.Fits k) : 0 < f.infMag := by
  have h4 : 2 ^ 2 ≤ 2 ^ f.ebits := Nat.pow_le_pow_right (by norm_num) hf.ebits_ge
  exact Nat.mul_pos (by unfold Fmt.expMax; omega) (Nat.two_pow_pos _)

theorem Fmt.Fits.infMag_even {k : Nat} (hf : f.Fits k) : f.infMag % 2 = 0 :=
  Nat.mod_eq_zero_of_dvd ((dvd_pow_self 2 (Nat.pos_iff_ne_zero.1 hf.fbits_pos)).mul_left _)

theorem Fmt.Fits.overflow_pos {k : Nat} (hf : f.Fits k) : 0 < f.overflow := by
  have hinf : f.grid 0 < f.grid f.infMag := grid_strictMono f hf.infMag_pos
  have hlast := grid_nonneg f (f.infMag - 1)
  rw [grid_zero] at hinf
  unfold Fmt.overflow
  linarith

/-- Rounding with an unbounded exponent stays finite below the threshold, and only there. -/
theorem Nearest.lt_infMag_iff {k : Nat} (hf : f.Fits k) {x : ℝ} {R : Nat} (h : Nearest f x R) :
    R < f.infMag ↔ x < f.overflow := by
  have hmono := (grid_strictMono f).monotone
  have hpos := hf.infMag_pos
  have heven := hf.infMag_even
  unfold Fmt.overflow
  constructor
  · intro hR
    have h1 : f.grid R ≤ f.grid (f.infMag - 1) := hmono (by omega)
    have h2 : f.grid (R + 1) ≤ f.grid f.infMag := hmono (by omega)
    by_contra hx
    have hup := h.upper
    have hR : R = f.infMag - 1 := (grid_strictMono f).injective (by linarith)
    have hR0 := h.upper_even (by linarith)
    omega
  · intro hx
    by_contra hR
    have hlow := h.lower (R - 1) (by omega)
    have h1 : f.grid (f.infMag - 1) ≤ f.grid (R - 1) := hmono (by omega)
    have h2 : f.grid f.infMag ≤ f.grid R := hmono (by omega)
    linarith

end Sys2Proof.Machine
end

section
/-! The rounding of the model (R101) gives the nearest magnitude, of an exact dyadic number and of a number that a
quotient or a root stands for with one sticky bit (R105, R108). -/

namespace Sys2Proof.Machine

variable {f : Fmt}

/-- `n · 2^e` stands for `x` with its lowest bit sticky: no even multiple of `2^e` lies between them. -/
def IsSticky (x : ℝ) (n : Nat) (e : Int) : Prop := n % 2 = 1 ∧ |x - n * 2 ^ e| < 2 ^ e

/-- `n · 2^e` rounds as `x` does: it is `x`, or it stands for `x` by a sticky bit below the rounding's half unit. -/
def Fmt.Represents (f : Fmt) (x : ℝ) (n : Nat) (e : Int) : Prop :=
  x = n * 2 ^ e ∨ (IsSticky x n e ∧ e + 2 ≤ f.roundExp n e)

/-- The significand the rounding computes. -/
def Fmt.roundSig (f : Fmt) (n : Nat) (e : Int) : Nat :=
  if f.roundExp n e ≤ e then n * 2 ^ (e - f.roundExp n e).toNat else roundNat n (f.roundExp n e - e).toNat

/-- The rounding before what passes the largest finite pattern becomes `∞`. -/
def Fmt.roundUnbounded (f : Fmt) (n : Nat) (e : Int) : Nat :=
  if n = 0 then 0 else (f.roundExp n e - f.emin).toNat * 2 ^ f.fbits + f.roundSig n e

theorem roundMag_eq_min (f : Fmt) (n : Nat) (e : Int) : f.roundMag n e = min (f.roundUnbounded n e) f.infMag := by
  unfold Fmt.roundMag Fmt.roundUnbounded
  split
  · exact (Nat.zero_min _).symm
  · rfl

theorem emin_le_roundExp (f : Fmt) (n : Nat) (e : Int) : f.emin ≤ f.roundExp n e := le_max_right _ _

/-- R13: rounding an integer moves it by at most half a unit, and by half a unit only to an even one. -/
theorem roundNat_spec (n d : Nat) :
    |2 * (n : ℤ) - 2 * (roundNat n d * 2 ^ d)| ≤ 2 ^ d ∧
      (|2 * (n : ℤ) - 2 * (roundNat n d * 2 ^ d)| = 2 ^ d → roundNat n d % 2 = 0) := by
  have hdm : (n : ℤ) = n / 2 ^ d * 2 ^ d + n % 2 ^ d := (Int.ediv_mul_add_emod _ _).symm
  have hr : (n : ℤ) % 2 ^ d < 2 ^ d := Int.emod_lt_of_pos _ (by positivity)
  have hr0 : 0 ≤ (n : ℤ) % 2 ^ d := Int.emod_nonneg _ (by positivity)
  have hcast : ((n % 2 ^ d : Nat) : ℤ) = (n : ℤ) % 2 ^ d := by push_cast; rfl
  have hP : ((2 ^ d : Nat) : ℤ) = 2 ^ d := by push_cast; rfl
  unfold roundNat
  dsimp only
  split
  next hc =>
    have hle : (2 : ℤ) ^ d ≤ 2 * (n % 2 ^ d) := by omega
    have hval : 2 * (n : ℤ) - 2 * (((n / 2 ^ d + 1 : Nat) : ℤ) * 2 ^ d) = -(2 * (2 ^ d - n % 2 ^ d)) := by
      push_cast
      linear_combination 2 * hdm
    rw [hval, abs_neg, abs_of_nonneg (by linarith)]
    exact ⟨by linarith, fun _ => by omega⟩
  next hc =>
    have hle : 2 * ((n : ℤ) % 2 ^ d) ≤ 2 ^ d := by omega
    have hval : 2 * (n : ℤ) - 2 * (((n / 2 ^ d : Nat) : ℤ) * 2 ^ d) = 2 * (n % 2 ^ d) := by
      push_cast
      linear_combination 2 * hdm
    rw [hval, abs_of_nonneg (by linarith)]
    exact ⟨hle, fun _ => by omega⟩

/-- A sticky number is odd, so it is a whole unit away from every even multiple of its unit. -/
theorem IsSticky.unit_le_abs_sub {x : ℝ} {n : Nat} {e : Int} (h : IsSticky x n e) (c : ℤ) :
    (2 : ℝ) ^ e ≤ |(n : ℝ) * 2 ^ e - (2 * c : ℤ) * 2 ^ e| := by
  have hodd : n % 2 = 1 := h.1
  have hone : (1 : ℤ) ≤ |(n : ℤ) - 2 * c| := Int.one_le_abs (by omega)
  have hu : (0 : ℝ) < 2 ^ e := by positivity
  rw [← sub_mul, abs_mul, abs_of_pos hu]
  exact le_mul_of_one_le_left hu.le (by exact_mod_cast hone)

/-- An even multiple of the unit that is not above a sticky number is below what the number stands for. -/
theorem IsSticky.lt_of_le {x y : ℝ} {n : Nat} {e : Int} (h : IsSticky x n e) (c : ℤ) (hy : y = (2 * c : ℤ) * 2 ^ e)
    (hle : y ≤ n * 2 ^ e) : y < x := by
  have hunit := h.unit_le_abs_sub c
  rw [← hy, abs_of_nonneg (sub_nonneg.2 hle)] at hunit
  linarith [(abs_lt.1 h.2).1]

/-- An even multiple of the unit that is not below a sticky number is above what the number stands for. -/
theorem IsSticky.gt_of_ge {x y : ℝ} {n : Nat} {e : Int} (h : IsSticky x n e) (c : ℤ) (hy : y = (2 * c : ℤ) * 2 ^ e)
    (hge : n * 2 ^ e ≤ y) : x < y := by
  have hunit := h.unit_le_abs_sub c
  rw [← hy, abs_of_nonpos (sub_nonpos.2 hge)] at hunit
  linarith [(abs_lt.1 h.2).2]

end Sys2Proof.Machine
end

section
/-! From a rounded significand to the nearest magnitude (R101): first for exact dyadic numbers, then for sticky ones.
-/

namespace Sys2Proof.Machine

variable {f : Fmt}

/-- `m` is the significand of `x` at the exponent `q`: `x` fills the binade of `q`, but for subnormals, and `m · 2^q`
is within half a unit of it, at half a unit only for an even `m`. -/
structure Fmt.SigOf (f : Fmt) (x : ℝ) (q : Int) (m : Nat) : Prop where
  lt : x < 2 ^ (f.fbits + 1) * 2 ^ q
  ge : q = f.emin ∨ 2 ^ f.fbits * 2 ^ q ≤ x
  near : |2 * x - 2 * (m * 2 ^ q)| ≤ 2 ^ q
  even : |2 * x - 2 * (m * 2 ^ q)| = 2 ^ q → m % 2 = 0

theorem zpow_eq_pow_mul {e q : Int} {d : Nat} (h : q = e + d) : (2 : ℝ) ^ q = 2 ^ d * 2 ^ e := by
  rw [h, zpow_add₀ (by norm_num), zpow_natCast, mul_comm]

/-- Dropping low bits moves the number by at most half a unit, and by half a unit only to an even significand. -/
theorem roundSig_near (f : Fmt) (n : Nat) (e : Int) :
    |2 * ((n : ℝ) * 2 ^ e) - 2 * (f.roundSig n e * 2 ^ f.roundExp n e)| ≤ 2 ^ f.roundExp n e ∧
      (|2 * ((n : ℝ) * 2 ^ e) - 2 * (f.roundSig n e * 2 ^ f.roundExp n e)| = 2 ^ f.roundExp n e →
        f.roundSig n e % 2 = 0) := by
  have hu : (0 : ℝ) < 2 ^ e := by positivity
  have hQ : (0 : ℝ) < 2 ^ f.roundExp n e := by positivity
  unfold Fmt.roundSig
  split
  next hq =>
    have he : (2 : ℝ) ^ e = 2 ^ (e - f.roundExp n e).toNat * 2 ^ f.roundExp n e := zpow_eq_pow_mul (by omega)
    have hzero : 2 * ((n : ℝ) * 2 ^ e) -
        2 * ((n * 2 ^ (e - f.roundExp n e).toNat : Nat) * 2 ^ f.roundExp n e) = 0 := by
      rw [he]
      push_cast
      ring
    rw [hzero, abs_zero]
    exact ⟨hQ.le, fun h => absurd h hQ.ne⟩
  next hq =>
    obtain ⟨hle, heven⟩ := roundNat_spec n (f.roundExp n e - e).toNat
    have hd : f.roundExp n e = e + (f.roundExp n e - e).toNat := by omega
    generalize (f.roundExp n e - e).toNat = d at *
    have hval : |2 * ((n : ℝ) * 2 ^ e) - 2 * (roundNat n d * 2 ^ f.roundExp n e)| =
        (|2 * (n : ℤ) - 2 * (roundNat n d * 2 ^ d)| : ℤ) * 2 ^ e := by
      rw [zpow_eq_pow_mul hd, Int.cast_abs, ← abs_of_pos hu, ← abs_mul, abs_of_pos hu]
      push_cast
      ring_nf
    rw [hval, zpow_eq_pow_mul hd]
    refine ⟨mul_le_mul_of_nonneg_right (by exact_mod_cast hle) hu.le, fun h => heven ?_⟩
    exact_mod_cast mul_right_cancel₀ hu.ne' h

/-- The rounding's exponent leaves at most `fbits + 1` bits (R101). -/
theorem lt_binade (f : Fmt) (n : Nat) (e : Int) : (n : ℝ) * 2 ^ e < 2 ^ (f.fbits + 1) * 2 ^ f.roundExp n e := by
  have hlt : (n : ℝ) < 2 ^ (n.log2 + 1) := by exact_mod_cast Nat.lt_log2_self
  have hexp : e + (n.log2 + 1 : Nat) ≤ f.roundExp n e + (f.fbits + 1 : Nat) := by
    have hmax := le_max_left (e + n.log2 - f.fbits) f.emin
    unfold Fmt.roundExp
    push_cast
    linarith
  calc (n : ℝ) * 2 ^ e < 2 ^ (n.log2 + 1) * 2 ^ e := mul_lt_mul_of_pos_right hlt (by positivity)
    _ = 2 ^ (e + (n.log2 + 1 : Nat)) := (zpow_eq_pow_mul rfl).symm
    _ ≤ 2 ^ (f.roundExp n e + (f.fbits + 1 : Nat)) := zpow_le_zpow_right₀ (by norm_num) hexp
    _ = 2 ^ (f.fbits + 1) * 2 ^ f.roundExp n e := zpow_eq_pow_mul rfl

/-- It leaves no fewer, but where the result is subnormal (R101). -/
theorem binade_le (f : Fmt) {n : Nat} (hn : n ≠ 0) (e : Int) :
    f.roundExp n e = f.emin ∨ (2 : ℝ) ^ f.fbits * 2 ^ f.roundExp n e ≤ n * 2 ^ e := by
  rcases max_choice (e + n.log2 - f.fbits) f.emin with hq | hq
  · right
    have hge : (2 : ℝ) ^ n.log2 ≤ n := by exact_mod_cast Nat.log2_self_le hn
    calc (2 : ℝ) ^ f.fbits * 2 ^ f.roundExp n e = 2 ^ (e + n.log2) :=
          (zpow_eq_pow_mul (by rw [Fmt.roundExp, hq]; ring)).symm
      _ = 2 ^ n.log2 * 2 ^ e := zpow_eq_pow_mul rfl
      _ ≤ n * 2 ^ e := mul_le_mul_of_nonneg_right hge (by positivity)
  · exact .inl hq

/-- An exact dyadic number has the significand the rounding computes. -/
theorem sigOf_roundSig (f : Fmt) {n : Nat} (hn : n ≠ 0) (e : Int) :
    f.SigOf (n * 2 ^ e) (f.roundExp n e) (f.roundSig n e) where
  lt := lt_binade f n e
  ge := binade_le f hn e
  near := (roundSig_near f n e).1
  even := (roundSig_near f n e).2

/-- What a sticky number stands for has the same significand: the binade's ends and the two half units around the
significand are even multiples of the sticky unit. -/
theorem Fmt.SigOf.of_sticky {x : ℝ} {n : Nat} {e q : Int} {m : Nat} (hx : IsSticky x n e) (hq : e + 2 ≤ q)
    (h : f.SigOf (n * 2 ^ e) q m) : f.SigOf x q m := by
  obtain ⟨d, hd⟩ : ∃ d : Nat, q = e + (d + 2 : Nat) := ⟨(q - e - 2).toNat, by omega⟩
  have hQ : (2 : ℝ) ^ q = 4 * (2 ^ d * 2 ^ e) := by rw [zpow_eq_pow_mul hd]; ring
  obtain ⟨hlt, hge, hnear, -⟩ := h
  obtain ⟨hlo, hhi⟩ := abs_le.1 hnear
  have hL : (2 * m - 1) * (2 * (2 ^ d * 2 ^ e)) < x :=
    hx.lt_of_le ((2 * m - 1) * 2 ^ d) (by push_cast; ring) (by rw [hQ] at hlo; linarith)
  have hR : x < (2 * m + 1) * (2 * (2 ^ d * 2 ^ e)) :=
    hx.gt_of_ge ((2 * m + 1) * 2 ^ d) (by push_cast; ring) (by rw [hQ] at hhi; linarith)
  have hstrict : |2 * x - 2 * (m * 2 ^ q)| < 2 ^ q := by
    rw [abs_lt, hQ]
    constructor <;> linarith
  refine ⟨?_, hge.imp_right fun hge => ?_, hstrict.le, fun heq => absurd heq hstrict.ne⟩
  · exact hx.gt_of_ge (2 ^ (f.fbits + 1) * (2 * 2 ^ d)) (by rw [hQ]; push_cast; ring) hlt.le
  · exact (hx.lt_of_le (2 ^ f.fbits * (2 * 2 ^ d)) (by rw [hQ]; push_cast; ring) hge).le

/-- The significand is at most the whole binade, and not below it but for subnormals. -/
theorem Fmt.SigOf.bounds {x : ℝ} {q : Int} {m : Nat} (h : f.SigOf x q m) :
    m ≤ 2 ^ (f.fbits + 1) ∧ (q = f.emin ∨ 2 ^ f.fbits ≤ m) := by
  have hu : (0 : ℝ) < 2 ^ q := by positivity
  obtain ⟨hlo, hhi⟩ := abs_le.1 h.near
  constructor
  · have hlt : (2 * m : ℝ) * 2 ^ q < (2 * 2 ^ (f.fbits + 1) + 1) * 2 ^ q := by linarith [h.lt]
    have hnat : 2 * m < 2 * 2 ^ (f.fbits + 1) + 1 := by exact_mod_cast lt_of_mul_lt_mul_right hlt hu.le
    omega
  · refine h.ge.imp_right fun hge => ?_
    have hle : (2 * 2 ^ f.fbits : ℝ) * 2 ^ q ≤ (2 * m + 1) * 2 ^ q := by linarith
    have hnat : 2 * 2 ^ f.fbits ≤ 2 * m + 1 := by exact_mod_cast le_of_mul_le_mul_right hle hu
    omega

section
variable {x : ℝ} {j m : Nat}

/-- The magnitude a significand and its exponent lay out. -/
theorem Fmt.SigOf.grid_eq (h : f.SigOf x (f.emin + j) m) : f.grid (j * 2 ^ f.fbits + m) = m * 2 ^ (f.emin + j) := by
  obtain ⟨hm, hge⟩ := h.bounds
  exact grid_mul_add f hm (hge.imp_left fun hq => by omega)

/-- `x` is not above the midpoint over that magnitude, which past a full binade is not the next multiple of the unit.
-/
theorem Fmt.SigOf.upper (h : f.SigOf x (f.emin + j) m) :
    2 * x ≤ f.grid (j * 2 ^ f.fbits + m) + f.grid (j * 2 ^ f.fbits + m + 1) ∧
      (2 * x = f.grid (j * 2 ^ f.fbits + m) + f.grid (j * 2 ^ f.fbits + m + 1) → m % 2 = 0) := by
  obtain ⟨hm, hge⟩ := h.bounds
  have hu : (0 : ℝ) < 2 ^ (f.emin + j) := by positivity
  have hhi := (abs_le.1 h.near).2
  rcases Nat.lt_or_eq_of_le hm with hlt | rfl
  · rw [h.grid_eq, Nat.add_assoc,
      grid_mul_add f hlt (hge.imp (fun hq => by omega) (Nat.le_succ_of_le ·))]
    push_cast
    refine ⟨by linarith, fun heq => h.even ?_⟩
    rw [abs_of_nonneg (by linarith)]
    linarith
  · have hnext := grid_lt_succ f (j * 2 ^ f.fbits + 2 ^ (f.fbits + 1))
    have hx := h.lt
    rw [h.grid_eq] at hnext ⊢
    push_cast at hnext ⊢
    exact ⟨by linarith, fun heq => by linarith⟩

/-- `x` is not below the midpoint under that magnitude, which at the start of a binade is not the multiple of the
unit before. -/
theorem Fmt.SigOf.lower (h : f.SigOf x (f.emin + j) m) {r : Nat} (hr : r + 1 = j * 2 ^ f.fbits + m) :
    f.grid r + f.grid (j * 2 ^ f.fbits + m) ≤ 2 * x ∧
      (f.grid r + f.grid (j * 2 ^ f.fbits + m) = 2 * x → m % 2 = 0) := by
  obtain ⟨hm, hge⟩ := h.bounds
  have hlo := (abs_le.1 h.near).1
  by_cases hin : j = 0 ∨ 2 ^ f.fbits + 1 ≤ m
  · obtain ⟨m, rfl⟩ : ∃ m', m = m' + 1 := by
      refine ⟨m - 1, ?_⟩
      rcases hin with rfl | hin <;> omega
    obtain rfl : r = j * 2 ^ f.fbits + m := by omega
    rw [h.grid_eq, grid_mul_add f (by omega) (hin.imp_right (Nat.le_of_succ_le_succ ·))]
    push_cast at hlo ⊢
    refine ⟨by linarith, fun heq => h.even ?_⟩
    have hu : (0 : ℝ) < 2 ^ (f.emin + j) := by positivity
    push_cast
    rw [abs_of_nonpos (by linarith)]
    linarith
  · obtain ⟨hj0, hm0⟩ := not_or.1 hin
    obtain rfl : m = 2 ^ f.fbits := by
      have := hge.resolve_left (by omega)
      omega
    have hprev := grid_lt_succ f r
    have hx := h.ge.resolve_left (by omega)
    rw [hr, h.grid_eq] at hprev
    rw [h.grid_eq]
    push_cast at hprev ⊢
    exact ⟨by linarith, fun heq => by linarith⟩

/-- A significand and its exponent make the nearest magnitude, and the significand's parity is the magnitude's. -/
theorem Fmt.SigOf.nearest (hf : 1 ≤ f.fbits) (h : f.SigOf x (f.emin + j) m) :
    Nearest f x (j * 2 ^ f.fbits + m) := by
  have heven : m % 2 = 0 → (j * 2 ^ f.fbits + m) % 2 = 0 := fun h0 => by
    obtain ⟨b, hb⟩ : ∃ b, f.fbits = b + 1 := ⟨f.fbits - 1, by omega⟩
    rw [hb, pow_succ, ← mul_assoc]
    omega
  exact ⟨h.upper.1, fun heq => heven (h.upper.2 heq), fun r hr => (h.lower hr).1,
    fun r hr heq => heven ((h.lower hr).2 heq)⟩

end

/-- R101: the rounding gives the nearest magnitude of what its operand represents. -/
theorem Fmt.Represents.nearest (hf : 1 ≤ f.fbits) {x : ℝ} {n : Nat} {e : Int} (h : f.Represents x n e) :
    Nearest f x (f.roundUnbounded n e) := by
  unfold Fmt.roundUnbounded
  split
  next h0 =>
    subst h0
    rcases h with rfl | ⟨⟨hodd, -⟩, -⟩
    · simpa using nearest_zero f
    · cases hodd
  next hn =>
    have hsig : f.SigOf x (f.roundExp n e) (f.roundSig n e) := by
      rcases h with rfl | ⟨hsticky, hq⟩
      · exact sigOf_roundSig f hn e
      · exact (sigOf_roundSig f hn e).of_sticky hsticky hq
    apply Fmt.SigOf.nearest hf
    have hq := emin_le_roundExp f n e
    rwa [Int.toNat_of_nonneg (by omega), add_sub_cancel]

end Sys2Proof.Machine
end

section
/-! Correctly rounded results (R101, R13) in either format, with their sign. -/

namespace Sys2Proof.Machine

variable {f : Fmt} {k : Nat}

/-- The number of a finite pattern (`value32`, `value64`). -/
def Fmt.valueOf (f : Fmt) (w : BitVec (k + 1)) : ℚ := numberOf (f.datumOf w)

/-- `IsRound32` and `IsRound64` in one. -/
def Fmt.IsRoundOf (f : Fmt) (v : ℝ) (w : BitVec (k + 1)) : Prop :=
  (|v| < f.overflow →
    isFin (f.datumOf w) = true ∧
      ∀ u : BitVec (k + 1), isFin (f.datumOf u) = true →
        |(f.valueOf w : ℝ) - v| ≤ |(f.valueOf u : ℝ) - v| ∧
          (|(f.valueOf w : ℝ) - v| = |(f.valueOf u : ℝ) - v| →
            f.valueOf u = f.valueOf w ∨ w.getLsbD 0 = false)) ∧
    (f.overflow ≤ v → f.datumOf w = .inf false) ∧ (v ≤ -f.overflow → f.datumOf w = .inf true)

/-- A real number from its sign and its magnitude. -/
def signedReal (s : Bool) (x : ℝ) : ℝ := if s then -x else x

theorem numberOf_fin (s : Bool) (n : Nat) (e : Int) :
    ((numberOf (.fin s n e) : ℚ) : ℝ) = signedReal s (n * 2 ^ e) := by
  cases s
  · simp [numberOf, signedInt, signedReal]
  · simp [numberOf, signedInt, signedReal]

theorem abs_signedReal (s : Bool) {x : ℝ} (hx : 0 ≤ x) : |signedReal s x| = x := by
  cases s
  · exact abs_of_nonneg hx
  · exact (abs_neg x).trans (abs_of_nonneg hx)

/-- A nonnegative number's distance to a number of either sign, and to one of its own sign. -/
theorem abs_signedReal_sub (s t : Bool) {x y : ℝ} (hx : 0 ≤ x) (hy : 0 ≤ y) :
    |signedReal t y - signedReal s x| = if t = s then |y - x| else y + x := by
  have hneg : |(-y) - x| = y + x := by rw [abs_of_nonpos (by linarith)]; ring
  have hpos : |y - -x| = y + x := by rw [abs_of_nonneg (by linarith)]; ring
  have hboth : |(-y) - -x| = |y - x| := by rw [← abs_neg]; congr 1; ring
  cases s <;> cases t
  case false.false => rfl
  case false.true => exact hneg
  case true.false => exact hpos
  case true.true => exact hboth

theorem valueOf_eq_signedReal (f : Fmt) {w : BitVec (k + 1)} (h : magOf w < f.infMag) :
    ((f.valueOf w : ℚ) : ℝ) = signedReal w.msb (f.grid (magOf w)) := by
  rw [Fmt.valueOf, Fmt.datumOf, datum_of_lt f _ h, numberOf_fin, Fmt.grid]

theorem Fmt.Fits.isFin_iff (hf : f.Fits k) (w : BitVec (k + 1)) :
    isFin (f.datumOf w) = true ↔ magOf w < f.infMag := by
  rcases hf.datumOf_cases w with ⟨h, hd⟩ | ⟨h, hd⟩ | ⟨h, hd⟩
  · exact iff_of_true (by rw [hd]; rfl) h
  · exact iff_of_false (by rw [hd]; simp [isFin]) h.not_lt
  · exact iff_of_false (by rw [hd]; simp [isFin]) h.not_gt

/-- A magnitude of the other sign is never nearer, and as near only when both are zero. -/
theorem Nearest.signed {x : ℝ} {R : Nat} (h : Nearest f x R) (hx : 0 ≤ x) (s t : Bool) (u : Nat) :
    |signedReal s (f.grid R) - signedReal s x| ≤ |signedReal t (f.grid u) - signedReal s x| ∧
      (|signedReal s (f.grid R) - signedReal s x| = |signedReal t (f.grid u) - signedReal s x| →
        signedReal t (f.grid u) = signedReal s (f.grid R) ∨ R % 2 = 0) := by
  have hu := grid_nonneg f u
  rw [abs_signedReal_sub s s hx (grid_nonneg f R), abs_signedReal_sub s t hx hu, if_pos rfl]
  split
  next hts =>
    obtain ⟨hle, heq⟩ := h.abs_le u
    exact ⟨hle, fun habs => (heq habs).imp_left fun huR => by rw [hts, huR]⟩
  next =>
    obtain ⟨hle, heq⟩ := h.abs_le 0
    rw [grid_zero, zero_sub, abs_neg, abs_of_nonneg hx] at hle heq
    refine ⟨by linarith, fun habs => .inr ?_⟩
    rcases heq (by linarith) with rfl | heven
    · rfl
    · exact heven

theorem getLsbD_zero_packOf (s : Bool) (hk : 1 ≤ k) {m : Nat} (hm : m < 2 ^ k) (heven : m % 2 = 0) :
    (packOf k s m).getLsbD 0 = false := by
  obtain ⟨j, rfl⟩ : ∃ j, k = j + 1 := ⟨k - 1, by omega⟩
  have hlow : (packOf (j + 1) s m).toNat % 2 = 0 := by
    rw [toNat_packOf s hm, pow_succ]
    split <;> omega
  rw [BitVec.getLsbD, Nat.testBit_zero, hlow]
  rfl

/-- The nearest magnitude with the sign is the correctly rounded result; from the threshold on it is infinite. -/
theorem Fmt.Fits.isRoundOf_packOf (hf : f.Fits k) {x : ℝ} (hx : 0 ≤ x) {R : Nat} (h : Nearest f x R) (s : Bool) :
    f.IsRoundOf (signedReal s x) (packOf k s (min R f.infMag)) := by
  have hlt : min R f.infMag < 2 ^ k := (min_le_right _ _).trans_lt hf.infMag_lt
  have hinf : f.overflow ≤ x → f.datumOf (packOf k s (min R f.infMag)) = .inf s := fun hge => by
    have hR : ¬ R < f.infMag := fun hR => hge.not_gt ((h.lt_infMag_iff hf).1 hR)
    rw [datumOf_packOf f s hlt, min_eq_right (not_lt.1 hR), datum_of_eq]
  have hpos := hf.overflow_pos
  refine ⟨fun hfin => ?_, fun hge => ?_, fun hle => ?_⟩
  · have hR : R < f.infMag := (h.lt_infMag_iff hf).2 (by rwa [abs_signedReal s hx] at hfin)
    rw [min_eq_left hR.le] at hlt ⊢
    have hmag : magOf (packOf k s R) < f.infMag := by rwa [magOf_packOf s hlt]
    have hval : ((f.valueOf (packOf k s R) : ℚ) : ℝ) = signedReal s (f.grid R) := by
      rw [valueOf_eq_signedReal f hmag, packOf_msb s hlt, magOf_packOf s hlt]
    refine ⟨(hf.isFin_iff _).2 hmag, fun u hu => ?_⟩
    have hvu := valueOf_eq_signedReal f ((hf.isFin_iff u).1 hu)
    rw [hval, hvu]
    obtain ⟨hle, htie⟩ := h.signed hx s u.msb (magOf u)
    refine ⟨hle, fun habs => (htie habs).imp (fun heq => ?_) fun heven => ?_⟩
    · exact_mod_cast (hvu.trans heq).trans hval.symm
    · exact getLsbD_zero_packOf s (by have := hf.width; have := hf.fbits_pos; omega) hlt heven
  · cases s
    · exact hinf hge
    · exact absurd hge (by unfold signedReal; simp only [if_true]; linarith)
  · cases s
    · exact absurd hle (by unfold signedReal; simp only [Bool.false_eq_true, if_false]; linarith)
    · exact hinf (by unfold signedReal at hle; simp only [if_true] at hle; linarith)

/-- R101: finishing an exact number, or one that represents `x`, rounds it correctly. -/
theorem Fmt.Fits.isRoundOf_finishOf (hf : f.Fits k) (nan : BitVec (k + 1)) (s : Bool) {x : ℝ} (hx : 0 ≤ x) {n : Nat}
    {e : Int} (h : f.Represents x n e) : f.IsRoundOf (signedReal s x) (f.finishOf nan (.fin s n e)) := by
  have hround := hf.isRoundOf_packOf hx (h.nearest hf.fbits_pos) s
  rwa [← roundMag_eq_min] at hround

theorem Fmt.Fits.isRoundOf_finishOf_exact (hf : f.Fits k) (nan : BitVec (k + 1)) (s : Bool) (n : Nat) (e : Int) :
    f.IsRoundOf ((numberOf (.fin s n e) : ℚ) : ℝ) (f.finishOf nan (.fin s n e)) := by
  rw [numberOf_fin]
  exact hf.isRoundOf_finishOf nan s (by positivity) (.inl rfl)

/-- A number whose significand needs no rounding keeps its value. -/
theorem grid_roundUnbounded (f : Fmt) {n : Nat} {e : Int} (hq : f.roundExp n e ≤ e) :
    f.grid (f.roundUnbounded n e) = n * 2 ^ e := by
  unfold Fmt.roundUnbounded
  split
  next h0 => simp [h0]
  next hn =>
    have hle := emin_le_roundExp f n e
    obtain ⟨hm, hge⟩ := (sigOf_roundSig f hn e).bounds
    rw [grid_mul_add f hm (hge.imp_left fun h => by omega), Int.toNat_of_nonneg (by omega), add_sub_cancel,
      Fmt.roundSig, if_pos hq, zpow_eq_pow_mul (show e = f.roundExp n e + (e - f.roundExp n e).toNat by omega)]
    push_cast
    ring

theorem roundExp_le (f : Fmt) {n : Nat} {e : Int} (hn : n < 2 ^ (f.fbits + 1)) (he : f.emin ≤ e) :
    f.roundExp n e ≤ e := by
  refine max_le ?_ he
  rcases Nat.eq_zero_or_pos n with rfl | hpos
  · simp
  · have hlog := (Nat.log2_lt hpos.ne').2 hn
    omega

/-- A number of the format comes out exactly. -/
theorem Fmt.Fits.finishOf_exact (hf : f.Fits k) (nan : BitVec (k + 1)) (s : Bool) {n : Nat} {e : Int}
    (hn : n < 2 ^ (f.fbits + 1)) (he : f.emin ≤ e) (hlt : (n * 2 ^ e : ℝ) < f.overflow) :
    isFin (f.datumOf (f.finishOf nan (.fin s n e))) = true ∧
      f.valueOf (f.finishOf nan (.fin s n e)) = numberOf (.fin s n e) := by
  have hgrid := grid_roundUnbounded f (roundExp_le f hn he)
  have hnear : Nearest f (n * 2 ^ e) (f.roundUnbounded n e) := Fmt.Represents.nearest hf.fbits_pos (.inl rfl)
  have hR : f.roundUnbounded n e < f.infMag := (hnear.lt_infMag_iff hf).2 hlt
  have hmin : f.roundMag n e = f.roundUnbounded n e := (roundMag_eq_min f n e).trans (min_eq_left hR.le)
  have hmag : magOf (f.finishOf nan (.fin s n e)) = f.roundUnbounded n e :=
    (magOf_packOf s (roundMag_lt hf n e)).trans hmin
  refine ⟨(hf.isFin_iff _).2 (hmag ▸ hR), Rat.cast_injective (α := ℝ) ?_⟩
  rw [valueOf_eq_signedReal f (hmag ▸ hR), hmag, hgrid, hf.finishOf_fin_msb, numberOf_fin]

/-- Finishing the datum of a pattern that is no NaN gives that pattern. -/
theorem Fmt.Fits.finishOf_datumOf (hf : f.Fits k) (nan w : BitVec (k + 1)) (h : f.datumOf w ≠ .nan) :
    f.finishOf nan (f.datumOf w) = w := by
  rcases hf.datumOf_cases w with ⟨hlt, hd⟩ | ⟨-, hd⟩ | ⟨-, hd⟩
  · have hnear : Nearest f (f.grid (magOf w)) (f.roundUnbounded (f.sig (magOf w)) (f.lowExp (magOf w))) :=
      Fmt.Represents.nearest hf.fbits_pos (.inl rfl)
    rw [hd, Fmt.finishOf, roundMag_eq_min, hnear.eq_of_grid, min_eq_left hlt.le, packOf_msb_magOf]
  · rw [hd, hf.finishOf_inf nan hd]
  · exact absurd hd h

theorem b32_overflow : b32.overflow = 2 ^ 128 - 2 ^ 103 := by
  have h1 : b32.sig (b32.infMag - 1) = 2 ^ 24 - 1 ∧ b32.lowExp (b32.infMag - 1) = 104 := by decide
  have h2 : b32.sig b32.infMag = 2 ^ 23 ∧ b32.lowExp b32.infMag = 105 := by decide
  rw [Fmt.overflow, Fmt.grid, Fmt.grid, h1.1, h1.2, h2.1, h2.2]
  norm_num

theorem b64_overflow : b64.overflow = 2 ^ 1024 - 2 ^ 970 := by
  have h1 : b64.sig (b64.infMag - 1) = 2 ^ 53 - 1 ∧ b64.lowExp (b64.infMag - 1) = 971 := by decide
  have h2 : b64.sig b64.infMag = 2 ^ 52 ∧ b64.lowExp b64.infMag = 972 := by decide
  have h971 : (2 : ℝ) ^ (971 : ℤ) = 2 ^ 1 * 2 ^ (970 : ℤ) := zpow_eq_pow_mul (by norm_num)
  have h972 : (2 : ℝ) ^ (972 : ℤ) = 2 ^ 2 * 2 ^ (970 : ℤ) := zpow_eq_pow_mul (by norm_num)
  have h1024 : (2 : ℝ) ^ 1024 = 2 ^ 54 * 2 ^ 970 := by rw [← pow_add]
  rw [Fmt.overflow, Fmt.grid, Fmt.grid, h1.1, h1.2, h2.1, h2.2, h971, h972, h1024, zpow_ofNat]
  generalize (2 : ℝ) ^ 970 = y
  push_cast
  ring

theorem isRound32_iff (v : ℝ) (w : W32) : IsRound32 v w ↔ b32.IsRoundOf (k := 31) v w := by
  rw [Fmt.IsRoundOf, b32_overflow]
  rfl

theorem isRound64_iff (v : ℝ) (w : W64) : IsRound64 v w ↔ b64.IsRoundOf (k := 63) v w := by
  rw [Fmt.IsRoundOf, b64_overflow]
  rfl

end Sys2Proof.Machine
end

section
/-! Quotients and roots (R105, R108): the integer part, of more bits than a significand, and one sticky bit represent
the real number. -/

namespace Sys2Proof.Machine

variable {f : Fmt} {k : Nat}

/-- The integer part `r` of `y` with one sticky bit below it represents `y`, when `r` has more bits than a
significand. -/
theorem represents_of_floor (hfb : f.fbits ≤ 61) {r : Nat} (hr : 2 ^ 63 ≤ r) {y : ℝ} (e : Int) {whole : Prop}
    [Decidable whole] (heq : whole → y = r) (hne : ¬ whole → (r : ℝ) < y ∧ y < r + 1) :
    f.Represents (y * 2 ^ (e + 1)) (2 * r + if whole then 0 else 1) e := by
  have hu : (0 : ℝ) < 2 ^ e := by positivity
  have hexp : (2 : ℝ) ^ (e + 1) = 2 * 2 ^ e := by rw [zpow_add_one₀ (by norm_num), mul_comm]
  unfold Fmt.Represents
  rw [hexp]
  split
  next h =>
    left
    rw [heq h]
    push_cast
    ring
  next h =>
    obtain ⟨hlo, hhi⟩ := hne h
    refine .inr ⟨⟨by omega, ?_⟩, ?_⟩
    · rw [abs_lt]
      push_cast
      constructor <;> nlinarith
    · have hlog : 64 ≤ (2 * r + 1).log2 := (Nat.le_log2 (by omega)).2 (by omega)
      have hmax := le_max_left (e + (2 * r + 1).log2 - f.fbits) f.emin
      unfold Fmt.roundExp
      omega

/-- R105: the quotient of the model represents the real quotient. -/
theorem exists_quotD_eq (hfb : f.fbits ≤ 61) (s : Bool) {n m : Nat} (hn : n ≠ 0) (hm : m ≠ 0) (e g : Int) :
    ∃ q h, quotD s n e m g = .fin s q h ∧ f.Represents (n * 2 ^ e / (m * 2 ^ g)) q h := by
  refine ⟨_, _, rfl, ?_⟩
  have hm0 : (0 : ℝ) < m := by exact_mod_cast Nat.pos_of_ne_zero hm
  have hbits : 2 ^ 63 ≤ n * 2 ^ (m.log2 + 64) / m := by
    rw [Nat.le_div_iff_mul_le (Nat.pos_of_ne_zero hm)]
    calc 2 ^ 63 * m ≤ 2 ^ 63 * 2 ^ (m.log2 + 1) := Nat.mul_le_mul_left _ Nat.lt_log2_self.le
      _ = 1 * 2 ^ (m.log2 + 64) := by rw [← pow_add, Nat.one_mul]; congr 1; omega
      _ ≤ n * 2 ^ (m.log2 + 64) := Nat.mul_le_mul_right _ (Nat.pos_of_ne_zero hn)
  have hdm := Nat.div_add_mod (n * 2 ^ (m.log2 + 64)) m
  have hmod := Nat.mod_lt (n * 2 ^ (m.log2 + 64)) (Nat.pos_of_ne_zero hm)
  have hy : (n * 2 ^ e / (m * 2 ^ g) : ℝ) =
      ((n * 2 ^ (m.log2 + 64) : Nat) : ℝ) / m * 2 ^ (e - g - (m.log2 + 64 : Nat) - 1 + 1) := by
    have hsplit : (2 : ℝ) ^ e = 2 ^ (m.log2 + 64) * (2 ^ (e - g - (m.log2 + 64 : Nat) - 1 + 1) * 2 ^ g) := by
      rw [← zpow_add₀ (by norm_num), ← zpow_eq_pow_mul (by ring)]
    rw [hsplit]
    push_cast
    field_simp
  rw [hy]
  generalize n * 2 ^ (m.log2 + 64) = p at *
  have hdmR : (p : ℝ) = m * (p / m : Nat) + (p % m : Nat) := by exact_mod_cast hdm.symm
  refine represents_of_floor hfb hbits _ (fun h => ?_) (fun h => ?_)
  · rw [div_eq_iff hm0.ne', hdmR, h]
    push_cast
    ring
  · have h0 : (0 : ℝ) < (p % m : Nat) := by exact_mod_cast Nat.pos_of_ne_zero h
    have h1 : ((p % m : Nat) : ℝ) < m := by exact_mod_cast hmod
    rw [lt_div_iff₀ hm0, div_lt_iff₀ hm0]
    constructor <;> linarith

theorem isqrtBits_eq_sqrt (n : Nat) : ∀ (b r : Nat), r * r ≤ n → n < (r + 2 ^ b) * (r + 2 ^ b) →
    isqrtBits n b r = Nat.sqrt n
  | 0, r, hlo, hhi => (Nat.eq_sqrt).2 ⟨hlo, hhi⟩
  | b + 1, r, hlo, hhi => by
    have hb : r + 2 ^ (b + 1) = r + 2 ^ b + 2 ^ b := by ring
    unfold isqrtBits
    split
    next hle => exact isqrtBits_eq_sqrt n b _ hle (hb ▸ hhi)
    next hgt => exact isqrtBits_eq_sqrt n b r hlo (not_le.1 hgt)

theorem isqrt_eq_sqrt (n : Nat) : isqrt n = Nat.sqrt n := by
  refine isqrtBits_eq_sqrt n _ 0 (Nat.zero_le _) ?_
  calc n < 2 ^ (n.log2 + 1) := Nat.lt_log2_self
    _ ≤ 2 ^ (n.log2 / 2 + 1 + (n.log2 / 2 + 1)) := Nat.pow_le_pow_right (by norm_num) (by omega)
    _ = (0 + 2 ^ (n.log2 / 2 + 1)) * (0 + 2 ^ (n.log2 / 2 + 1)) := by rw [Nat.zero_add, ← pow_add]

/-- R108: the root of the model represents the real root. -/
theorem exists_rootD_eq (hfb : f.fbits ≤ 61) {n : Nat} (hn : n ≠ 0) (e : Int) :
    ∃ r h, rootD n e = .fin false r h ∧ f.Represents (Real.sqrt (n * 2 ^ e)) r h := by
  refine ⟨_, _, rfl, ?_⟩
  rw [isqrt_eq_sqrt]
  have hbits : 2 ^ 63 ≤ Nat.sqrt (n * 2 ^ (128 + (e % 2).toNat)) := by
    rw [Nat.le_sqrt]
    calc 2 ^ 63 * 2 ^ 63 ≤ 1 * 2 ^ (128 + (e % 2).toNat) := by
          rw [← pow_add, Nat.one_mul]; exact Nat.pow_le_pow_right (by norm_num) (by omega)
      _ ≤ n * 2 ^ (128 + (e % 2).toNat) := Nat.mul_le_mul_right _ (Nat.pos_of_ne_zero hn)
  have hy : Real.sqrt (n * 2 ^ e) = Real.sqrt ((n * 2 ^ (128 + (e % 2).toNat) : Nat) : ℝ) *
      2 ^ ((e - (128 + (e % 2).toNat : Nat)) / 2 - 1 + 1) := by
    have hhalf : e = (e - (128 + (e % 2).toNat : Nat)) / 2 - 1 + 1 +
        ((e - (128 + (e % 2).toNat : Nat)) / 2 - 1 + 1) + (128 + (e % 2).toNat : Nat) := by omega
    generalize 128 + (e % 2).toNat = b at *
    generalize (e - (b : Nat)) / 2 - 1 + 1 = c at *
    have hsplit : (2 : ℝ) ^ e = 2 ^ b * (2 ^ c * 2 ^ c) := by
      rw [← zpow_add₀ (by norm_num)]
      exact zpow_eq_pow_mul hhalf
    rw [hsplit, ← mul_assoc, Real.sqrt_mul (by positivity), Real.sqrt_mul_self (by positivity)]
    push_cast
    rfl
  rw [hy]
  generalize n * 2 ^ (128 + (e % 2).toNat) = p at *
  have hlo : Nat.sqrt p * Nat.sqrt p ≤ p := Nat.sqrt_le p
  have hhi : p < (Nat.sqrt p + 1) * (Nat.sqrt p + 1) := Nat.lt_succ_sqrt p
  refine represents_of_floor hfb hbits _ (fun h => ?_) (fun h => ⟨?_, ?_⟩)
  · rw [← h]
    push_cast
    rw [Real.sqrt_mul_self (by positivity), h]
  · rw [Real.lt_sqrt (by positivity), sq]
    exact_mod_cast lt_of_le_of_ne hlo h
  · rw [Real.sqrt_lt' (by positivity), sq]
    exact_mod_cast hhi

end Sys2Proof.Machine
end

section
/-! Exact arithmetic on data (R102, R104, R106): what each operation answers, by the classes of its operands, and
that on numbers it is the sum and the product of their values. -/

namespace Sys2Proof.Machine

theorem numberOf_eq_zero_iff (s : Bool) (n : Nat) (e : Int) : numberOf (.fin s n e) = 0 ↔ n = 0 := by
  have he : (2 : ℚ) ^ e ≠ 0 := by positivity
  cases s <;> simp [numberOf, signedInt, he]

theorem addD_nan_right (x : Datum) : addD x .nan = .nan := by cases x <;> rfl

theorem mulD_nan_right (x : Datum) : mulD x .nan = .nan := by cases x <;> rfl

theorem divD_nan_right (x : Datum) : divD x .nan = .nan := by cases x <;> rfl

theorem addD_inf_inf (s t : Bool) : addD (.inf s) (.inf t) = if s = t then .inf s else .nan := rfl

theorem addD_fin_inf (s t : Bool) (n : Nat) (e : Int) : addD (.fin s n e) (.inf t) = .inf t := rfl

/-- An infinity and anything but a NaN and the opposite infinity. -/
theorem addD_inf_left {s : Bool} {y : Datum} (hnan : y ≠ .nan) (hopp : y ≠ .inf !s) : addD (.inf s) y = .inf s := by
  cases y with
  | nan => exact absurd rfl hnan
  | inf t =>
    have hst : s = t := by
      by_contra hne
      exact hopp (congrArg _ (Bool.eq_not_of_ne (Ne.symm hne)))
    rw [addD_inf_inf, if_pos hst]
  | fin t n e => rfl

theorem mulD_comm (x y : Datum) : mulD x y = mulD y x := by
  cases x with
  | nan => exact (mulD_nan_right y).symm
  | inf s =>
    cases y with
    | nan => rfl
    | inf t => exact congrArg Datum.inf (Bool.xor_comm s t)
    | fin t m g => simp only [mulD, Bool.xor_comm]
  | fin s n e =>
    cases y with
    | nan => rfl
    | inf t => simp only [mulD, Bool.xor_comm]
    | fin t m g => simp only [mulD, Bool.xor_comm, Nat.mul_comm, Int.add_comm]

theorem mulD_inf_inf (s t : Bool) : mulD (.inf s) (.inf t) = .inf (s ^^ t) := rfl

theorem mulD_inf_fin (s t : Bool) (n : Nat) (e : Int) :
    mulD (.inf s) (.fin t n e) = if n = 0 then .nan else .inf (s ^^ t) := rfl

theorem mulD_fin_fin (s t : Bool) (n m : Nat) (e g : Int) :
    mulD (.fin s n e) (.fin t m g) = .fin (s ^^ t) (n * m) (e + g) := rfl

/-- A signed integer as a product with its sign. -/
theorem signedInt_eq_mul (s : Bool) (n : Nat) : signedInt s n = (if s then -1 else 1) * n := by
  cases s <;> simp [signedInt]

theorem signedInt_mul (s t : Bool) (n m : Nat) : signedInt (s ^^ t) (n * m) = signedInt s n * signedInt t m := by
  have hsign : ∀ s t : Bool, (if s ^^ t then (-1 : ℤ) else 1) = (if s then -1 else 1) * (if t then -1 else 1) := by
    decide
  rw [signedInt_eq_mul, signedInt_eq_mul, signedInt_eq_mul, hsign]
  push_cast
  ring

theorem numberOf_mulD (s t : Bool) (n m : Nat) (e g : Int) :
    numberOf (.fin (s ^^ t) (n * m) (e + g)) = numberOf (.fin s n e) * numberOf (.fin t m g) := by
  rw [numberOf, numberOf, numberOf, signedInt_mul, zpow_add₀ (by norm_num)]
  push_cast
  ring

/-- A number in units of any lower power of two. -/
theorem numberOf_eq_shifted (s : Bool) (n : Nat) {e c : Int} (h : c ≤ e) :
    numberOf (.fin s n e) = (signedInt s (n * 2 ^ (e - c).toNat) : ℚ) * 2 ^ c := by
  have he : (2 : ℚ) ^ e = 2 ^ (e - c).toNat * 2 ^ c := by
    rw [← zpow_natCast, ← zpow_add₀ (by norm_num)]
    congr 1
    omega
  rw [numberOf, he, signedInt_eq_mul, signedInt_eq_mul]
  push_cast
  ring

theorem signedInt_decide_natAbs (v : ℤ) : signedInt (decide (v < 0)) v.natAbs = v := by
  unfold signedInt
  split
  next h => have := of_decide_eq_true h; omega
  next h => have := of_decide_eq_false (Bool.eq_false_iff.2 h); omega

theorem numberOf_natAbs (v : ℤ) (c : Int) : numberOf (.fin (decide (v < 0)) v.natAbs c) = v * 2 ^ c := by
  rw [numberOf, signedInt_decide_natAbs]

/-- A zero sum is `-0` only for two negative zeros (R102). -/
theorem addD_of_sum_eq_zero {s t : Bool} {n m : Nat} {e g : Int}
    (h : numberOf (.fin s n e) + numberOf (.fin t m g) = 0) :
    addD (.fin s n e) (.fin t m g) = .fin (s && t && n == 0 && m == 0) 0 (min e g) := by
  have hc : (2 : ℚ) ^ min e g ≠ 0 := by positivity
  rw [numberOf_eq_shifted s n (min_le_left e g), numberOf_eq_shifted t m (min_le_right e g), ← add_mul] at h
  have hv := (mul_eq_zero.1 h).resolve_right hc
  exact if_pos (by exact_mod_cast hv)

/-- Any other sum is the exact one. -/
theorem addD_of_sum_ne_zero {s t : Bool} {n m : Nat} {e g : Int}
    (h : numberOf (.fin s n e) + numberOf (.fin t m g) ≠ 0) :
    ∃ u l c, addD (.fin s n e) (.fin t m g) = .fin u l c ∧
      numberOf (.fin u l c) = numberOf (.fin s n e) + numberOf (.fin t m g) := by
  have hs := numberOf_eq_shifted s n (min_le_left e g)
  have ht := numberOf_eq_shifted t m (min_le_right e g)
  refine ⟨_, _, _, if_neg fun hv => h ?_, ?_⟩
  · rw [hs, ht, ← add_mul]
    have hv0 : ((signedInt s (n * 2 ^ (e - min e g).toNat) : ℚ) + signedInt t (m * 2 ^ (g - min e g).toNat)) = 0 := by
      exact_mod_cast hv
    rw [hv0, zero_mul]
  · rw [numberOf_natAbs, hs, ht, ← add_mul]
    push_cast
    rfl

end Sys2Proof.Machine
end

section
/-! Binary32 patterns by their class (R101), and what a finished exact result is. -/

namespace Sys2Proof.Machine

theorem isNaN32_iff (w : W32) : isNaN32 w = true ↔ datum32 w = .nan := beq_iff_eq

theorem isNaN32_eq_false_iff (w : W32) : isNaN32 w = false ↔ datum32 w ≠ .nan := beq_eq_false_iff_ne

theorem Fmt.Fits.datumOf_of_isFin {f : Fmt} {k : Nat} (hf : f.Fits k) {w : BitVec (k + 1)}
    (h : isFin (f.datumOf w) = true) : ∃ n e, f.datumOf w = .fin w.msb n e := by
  have hd := datum_of_lt f w.msb ((hf.isFin_iff w).1 h)
  exact ⟨_, _, hd⟩

theorem Fmt.Fits.datumOf_of_isInf {f : Fmt} {k : Nat} (hf : f.Fits k) {w : BitVec (k + 1)}
    (h : (f.datumOf w == .inf false || f.datumOf w == .inf true) = true) : f.datumOf w = .inf w.msb := by
  rcases Bool.or_eq_true_iff.1 h with hs | hs
  · rw [← (hf.eq_packOf_of_inf (beq_iff_eq.1 hs)).1]; exact beq_iff_eq.1 hs
  · rw [← (hf.eq_packOf_of_inf (beq_iff_eq.1 hs)).1]; exact beq_iff_eq.1 hs

theorem datum32_of_isFin32 {w : W32} (h : isFin32 w = true) : ∃ n e, datum32 w = .fin w.msb n e := by
  rw [isFin32, datum32_eq] at h
  exact b32_fits.datumOf_of_isFin h

theorem datum32_of_isInf32 {w : W32} (h : isInf32 w = true) : datum32 w = .inf w.msb := by
  rw [isInf32, datum32_eq] at h
  exact b32_fits.datumOf_of_isInf h

theorem datum32_ne_inf_not {w : W32} {s : Bool} (h : ¬ (isInf32 w = true ∧ w.msb ≠ s)) : datum32 w ≠ .inf !s := by
  intro hd
  obtain ⟨hs, -⟩ := b32_fits.eq_packOf_of_inf (k := 31) hd
  refine h ⟨?_, by rw [← hs]; exact Bool.not_ne_self s⟩
  rw [isInf32, hd]
  cases s <;> rfl

/-- An infinity or a number other than zero: what times an infinity is an infinity (R104). -/
theorem mulD_inf_of_nonzero {s : Bool} {w : W32} (h : isInf32 w = true ∨ (isFin32 w = true ∧ value32 w ≠ 0)) :
    mulD (.inf s) (datum32 w) = .inf (s ^^ w.msb) := by
  rcases h with h | ⟨h, h0⟩
  · rw [datum32_of_isInf32 h, mulD_inf_inf]
  · obtain ⟨n, e, hd⟩ := datum32_of_isFin32 h
    rw [value32, hd, ne_eq, numberOf_eq_zero_iff] at h0
    rw [hd, mulD_inf_fin, if_neg h0]

theorem mulD_inf_of_zero {s : Bool} {w : W32} (h : isFin32 w = true) (h0 : value32 w = 0) :
    mulD (.inf s) (datum32 w) = .nan := by
  obtain ⟨n, e, hd⟩ := datum32_of_isFin32 h
  rw [value32, hd, numberOf_eq_zero_iff] at h0
  rw [hd, mulD_inf_fin, if_pos h0]

theorem isNaN32_finish32_nan (x : NaN32) : isNaN32 (finish32 x .nan) = true := isNaN32_bitsOfNaN32 x

theorem datum32_finish32_inf (x : NaN32) (s : Bool) : datum32 (finish32 x (.inf s)) = .inf s :=
  b32_fits.datumOf_finishOf_inf (k := 31) (bitsOfNaN32 x) s

theorem finish32_inf (x : NaN32) {w : W32} (h : isInf32 w = true) : finish32 x (.inf w.msb) = w :=
  b32_fits.finishOf_inf (k := 31) (bitsOfNaN32 x) (datum32_of_isInf32 h)

theorem finish32_zero (x : NaN32) (s : Bool) (e : Int) : finish32 x (.fin s 0 e) = if s then C_SIGN else C_ZERO := by
  rw [finish32, roundMag_zero]
  cases s <;> decide

theorem finish32_msb (x : NaN32) (s : Bool) (n : Nat) (e : Int) : (finish32 x (.fin s n e)).msb = s :=
  b32_fits.finishOf_fin_msb (k := 31) (bitsOfNaN32 x) s n e

/-- R101: an exact number is rounded correctly. -/
theorem isRound32_finish32 (x : NaN32) (s : Bool) (n : Nat) (e : Int) :
    IsRound32 ((numberOf (.fin s n e) : ℚ) : ℝ) (finish32 x (.fin s n e)) :=
  (isRound32_iff _ _).2 (b32_fits.isRoundOf_finishOf_exact (k := 31) (bitsOfNaN32 x) s n e)

/-- Finishing the datum of a pattern that is no NaN gives that pattern. -/
theorem finish32_datum32 (x : NaN32) {w : W32} (h : datum32 w ≠ .nan) : finish32 x (datum32 w) = w := by
  rw [finish32_eq]
  exact b32_fits.finishOf_datumOf (k := 31) (bitsOfNaN32 x) w h

theorem eq_sign_iff {w : W32} {s : Bool} {n : Nat} {e : Int} (h : datum32 w = .fin s n e) :
    w = C_SIGN ↔ s = true ∧ n = 0 :=
  b32_fits.eq_packOf_zero_iff (k := 31) h true

end Sys2Proof.Machine
end

section
/-! The sum, the product and the multiply-add on binary32 (R102 to R104, R106, R107), by the classes of the operands.
-/

namespace Sys2Proof.Machine

/-- The sum of two numbers, one of them perhaps a product that is no pattern (R102, R106). -/
theorem finish32_addD (x : NaN32) (s t : Bool) (n m : Nat) (e g : Int) :
    (numberOf (.fin s n e) + numberOf (.fin t m g) = 0 → finish32 x (addD (.fin s n e) (.fin t m g)) =
        if (s = true ∧ n = 0) ∧ (t = true ∧ m = 0) then C_SIGN else C_ZERO) ∧
      (numberOf (.fin s n e) + numberOf (.fin t m g) ≠ 0 →
        IsRound32 ((numberOf (.fin s n e) + numberOf (.fin t m g) : ℚ) : ℝ)
          (finish32 x (addD (.fin s n e) (.fin t m g)))) := by
  constructor
  · intro h
    rw [addD_of_sum_eq_zero h, finish32_zero]
    congr 1
    simp only [Bool.and_eq_true, beq_iff_eq, eq_iff_iff]
    tauto
  · intro h
    obtain ⟨u, l, c, hadd, hval⟩ := addD_of_sum_ne_zero h
    rw [hadd, ← hval]
    exact isRound32_finish32 x u l c

/-- Inverting the sign bit inverts the sign of the datum (R103). -/
theorem datum32_xor_sign (b : W32) : datum32 (b ^^^ C_SIGN) = negD (datum32 b) := by
  have hmsb : (b ^^^ C_SIGN).msb = !b.msb := by
    rw [BitVec.msb_xor, show C_SIGN.msb = true from rfl, Bool.xor_true]
  have hmag : mag32 (b ^^^ C_SIGN) = mag32 b := by
    rw [mag32, BitVec.toNat_xor, Nat.xor_mod_two_pow, show C_SIGN.toNat % 2 ^ 31 = 0 from rfl, Nat.xor_zero, mag32]
  unfold datum32 Fmt.datum
  rw [hmsb, hmag]
  dsimp only
  split
  · split <;> rfl
  · split <;> rfl

/-- Settles O31: the rules of `addD` by class, and one rounding of an exact sum. -/
theorem faddFollowsItsRule : Obligations.FaddFollowsItsRule := by
  intro d a b
  refine ⟨fun h => ?_, fun ha hb hne => ?_, fun ha hb hopp => ?_, fun ha hb => ?_, fun ha hb => ?_, fun hb => ?_, ?_⟩
  · rw [isNaN32_iff, isNaN32_iff] at h
    rcases h with h | h
    · rw [fadd, h]; exact isNaN32_finish32_nan _
    · rw [fadd, h, addD_nan_right]; exact isNaN32_finish32_nan _
  · rw [fadd, datum32_of_isInf32 ha, datum32_of_isInf32 hb, addD_inf_inf, if_neg hne]
    exact isNaN32_finish32_nan _
  · have hopp' : ¬ (isInf32 b = true ∧ b.msb ≠ a.msb) := fun h => hopp ⟨h.1, Ne.symm h.2⟩
    rw [fadd, datum32_of_isInf32 ha, addD_inf_left ((isNaN32_eq_false_iff b).1 hb) (datum32_ne_inf_not hopp'),
      finish32_inf _ ha]
  · obtain ⟨n, e, hd⟩ := datum32_of_isFin32 ha
    rw [fadd, hd, datum32_of_isInf32 hb, addD_fin_inf, finish32_inf _ hb]
  · obtain ⟨n, e, hda⟩ := datum32_of_isFin32 ha
    obtain ⟨m, g, hdb⟩ := datum32_of_isFin32 hb
    obtain ⟨hzero, hround⟩ := finish32_addD (d .fadd [a, b]) a.msb b.msb n m e g
    rw [value32, value32, fadd, hda, hdb]
    exact ⟨fun h0 => (hzero h0).trans (if_congr (and_congr (eq_sign_iff hda) (eq_sign_iff hdb)).symm rfl rfl), hround⟩
  · rw [fsub, (isNaN32_iff b).1 hb]
    exact (congrArg isNaN32 (congrArg (finish32 _) (addD_nan_right _))).trans (isNaN32_finish32_nan _)
  · rw [fsub, fadd, datum32_xor_sign]
    cases addD (datum32 a) (negD (datum32 b)) with
    | nan => exact .inl ⟨isNaN32_finish32_nan _, isNaN32_finish32_nan _⟩
    | inf s => exact .inr rfl
    | fin s n e => exact .inr rfl

/-- Settles O32: the rules of `mulD` by class, and one rounding of an exact product. -/
theorem fmulFollowsItsRule : Obligations.FmulFollowsItsRule := by
  intro d a b
  refine ⟨fun h => ?_, fun ha hb h0 => ?_, fun ha hb => ?_, fun ha hb => ?_⟩
  · rw [isNaN32_iff, isNaN32_iff] at h
    rcases h with h | h
    · rw [fmul, h]; exact isNaN32_finish32_nan _
    · rw [fmul, h, mulD_nan_right]; exact isNaN32_finish32_nan _
  · rw [fmul, fmul, mulD_comm (datum32 b), datum32_of_isInf32 ha, mulD_inf_of_zero hb h0]
    exact ⟨isNaN32_finish32_nan _, isNaN32_finish32_nan _⟩
  · rw [fmul, fmul, mulD_comm (datum32 b), datum32_of_isInf32 ha, mulD_inf_of_nonzero hb]
    exact ⟨datum32_finish32_inf _ _, datum32_finish32_inf _ _⟩
  · obtain ⟨n, e, hda⟩ := datum32_of_isFin32 ha
    obtain ⟨m, g, hdb⟩ := datum32_of_isFin32 hb
    rw [value32, value32, fmul, hda, hdb, mulD_fin_fin, ← numberOf_mulD]
    exact ⟨isRound32_finish32 _ _ _ _, fun _ _ => finish32_msb _ _ _ _⟩

/-- Settles O34: the exact product by class, and one rounding of its exact sum with the addend. -/
theorem fmaFollowsItsRule : Obligations.FmaFollowsItsRule := by
  intro d a b c
  refine ⟨fun h => ?_, fun ha hb h0 => ?_, fun ha hb hc hne => ?_, fun ha hb hc hopp => ?_, fun ha hb hc => ?_,
    fun ha hb hc => ?_, rfl, rfl⟩
  · rw [isNaN32_iff, isNaN32_iff, isNaN32_iff] at h
    rcases h with h | h | h
    · rw [fma, h]; exact isNaN32_finish32_nan _
    · rw [fma, h, mulD_nan_right]; exact isNaN32_finish32_nan _
    · rw [fma, h, addD_nan_right]; exact isNaN32_finish32_nan _
  · rw [fma, fma, mulD_comm (datum32 b), datum32_of_isInf32 ha, mulD_inf_of_zero hb h0]
    exact ⟨isNaN32_finish32_nan _, isNaN32_finish32_nan _⟩
  · rw [fma, fma, mulD_comm (datum32 b), datum32_of_isInf32 ha, mulD_inf_of_nonzero hb, datum32_of_isInf32 hc,
      addD_inf_inf, if_neg (Ne.symm hne)]
    exact ⟨isNaN32_finish32_nan _, isNaN32_finish32_nan _⟩
  · rw [fma, fma, mulD_comm (datum32 b), datum32_of_isInf32 ha, mulD_inf_of_nonzero hb,
      addD_inf_left ((isNaN32_eq_false_iff c).1 hc) (datum32_ne_inf_not hopp)]
    exact ⟨datum32_finish32_inf _ _, datum32_finish32_inf _ _⟩
  · obtain ⟨n, e, hda⟩ := datum32_of_isFin32 ha
    obtain ⟨m, g, hdb⟩ := datum32_of_isFin32 hb
    rw [fma, hda, hdb, mulD_fin_fin, datum32_of_isInf32 hc, addD_fin_inf, finish32_inf _ hc]
  · obtain ⟨n, e, hda⟩ := datum32_of_isFin32 ha
    obtain ⟨m, g, hdb⟩ := datum32_of_isFin32 hb
    obtain ⟨l, h, hdc⟩ := datum32_of_isFin32 hc
    obtain ⟨hzero, hround⟩ := finish32_addD (d .fma [a, b, c]) (a.msb ^^ b.msb) c.msb (n * m) l (e + g) h
    rw [value32, value32, value32, fma, hda, hdb, hdc, mulD_fin_fin, ← numberOf_mulD]
    refine ⟨fun h0 => (hzero h0).trans (if_congr ?_ rfl rfl), hround⟩
    rw [eq_sign_iff hdc, numberOf_eq_zero_iff]
    tauto

end Sys2Proof.Machine
end

section
/-! Quotient and root in either format (R105, R108), by the classes of the operands. -/

namespace Sys2Proof.Machine

variable {f : Fmt} {k : Nat}

theorem divD_inf_inf (s t : Bool) : divD (.inf s) (.inf t) = .nan := rfl

theorem divD_inf_fin (s t : Bool) (n : Nat) (e : Int) : divD (.inf s) (.fin t n e) = .inf (s ^^ t) := rfl

theorem divD_fin_inf (s t : Bool) (n : Nat) (e : Int) : divD (.fin s n e) (.inf t) = .fin (s ^^ t) 0 0 := rfl

theorem divD_zero_zero (s t : Bool) (e g : Int) : divD (.fin s 0 e) (.fin t 0 g) = .nan := rfl

theorem divD_fin_zero (s t : Bool) {n : Nat} (hn : n ≠ 0) (e g : Int) :
    divD (.fin s n e) (.fin t 0 g) = .inf (s ^^ t) := by
  simp [divD, hn]

theorem signedReal_div (s t : Bool) (x y : ℝ) :
    signedReal s x / signedReal t y = signedReal (s ^^ t) (x / y) := by
  cases s <;> cases t
  case false.false => rfl
  case false.true => exact div_neg x
  case true.false => exact neg_div y x
  case true.true => exact neg_div_neg_eq x y

/-- The quotient of a number by one that is not zero has the exclusive or of the signs, and represents the real
quotient. -/
theorem exists_divD_eq (hfb : f.fbits ≤ 61) (s t : Bool) (n : Nat) {m : Nat} (hm : m ≠ 0) (e g : Int) :
    ∃ q h, divD (.fin s n e) (.fin t m g) = .fin (s ^^ t) q h ∧ f.Represents (n * 2 ^ e / (m * 2 ^ g)) q h := by
  by_cases hn : n = 0
  · refine ⟨0, 0, by simp [divD, hm, hn], .inl ?_⟩
    simp [hn]
  · obtain ⟨q, h, hq, hrep⟩ := exists_quotD_eq hfb (s ^^ t) hn hm e g
    exact ⟨q, h, by simp only [divD, if_neg hm, if_neg hn, hq], hrep⟩

/-- `q` is the quotient of `a` and `b` as R105 says. -/
structure Fmt.IsQuotient (f : Fmt) (a b q : BitVec (k + 1)) : Prop where
  nan : (f.datumOf a == .nan) = true ∨ (f.datumOf b == .nan) = true → (f.datumOf q == .nan) = true
  inf_inf : f.datumOf a = .inf a.msb → f.datumOf b = .inf b.msb → (f.datumOf q == .nan) = true
  zero_zero : isFin (f.datumOf a) = true → isFin (f.datumOf b) = true → f.valueOf a = 0 → f.valueOf b = 0 →
    (f.datumOf q == .nan) = true
  inf_fin : f.datumOf a = .inf a.msb → isFin (f.datumOf b) = true → f.datumOf q = .inf (a.msb ^^ b.msb)
  fin_inf : isFin (f.datumOf a) = true → f.datumOf b = .inf b.msb → q = packOf k (a.msb ^^ b.msb) 0
  fin_zero : isFin (f.datumOf a) = true → isFin (f.datumOf b) = true → f.valueOf a ≠ 0 → f.valueOf b = 0 →
    f.datumOf q = .inf (a.msb ^^ b.msb)
  fin_fin : isFin (f.datumOf a) = true → isFin (f.datumOf b) = true → f.valueOf b ≠ 0 →
    f.IsRoundOf ((f.valueOf a / f.valueOf b : ℚ) : ℝ) q ∧ q.msb = (a.msb ^^ b.msb)

theorem valueOf_eq_zero_iff {w : BitVec (k + 1)} {s : Bool} {n : Nat} {e : Int}
    (h : f.datumOf w = .fin s n e) : f.valueOf w = 0 ↔ n = 0 := by
  rw [Fmt.valueOf, h, numberOf_eq_zero_iff]

theorem Fmt.Fits.isQuotient_finishOf (hf : f.Fits k) {nan : BitVec (k + 1)} (hnan : f.datumOf nan = .nan)
    (a b : BitVec (k + 1)) : f.IsQuotient a b (f.finishOf nan (divD (f.datumOf a) (f.datumOf b))) where
  nan := by
    rintro (h | h)
    · rw [beq_iff_eq.1 h]; exact beq_iff_eq.2 hnan
    · rw [beq_iff_eq.1 h, divD_nan_right]; exact beq_iff_eq.2 hnan
  inf_inf := fun ha hb => by rw [ha, hb, divD_inf_inf]; exact beq_iff_eq.2 hnan
  zero_zero := fun ha hb h0 h0' => by
    obtain ⟨n, e, hda⟩ := hf.datumOf_of_isFin ha
    obtain ⟨m, g, hdb⟩ := hf.datumOf_of_isFin hb
    obtain rfl := (valueOf_eq_zero_iff hda).1 h0
    obtain rfl := (valueOf_eq_zero_iff hdb).1 h0'
    rw [hda, hdb, divD_zero_zero]
    exact beq_iff_eq.2 hnan
  inf_fin := fun ha hb => by
    obtain ⟨m, g, hdb⟩ := hf.datumOf_of_isFin hb
    rw [ha, hdb, divD_inf_fin, hf.datumOf_finishOf_inf]
  fin_inf := fun ha hb => by
    obtain ⟨n, e, hda⟩ := hf.datumOf_of_isFin ha
    rw [hda, hb, divD_fin_inf, finishOf_fin_zero]
  fin_zero := fun ha hb h0 h0' => by
    obtain ⟨n, e, hda⟩ := hf.datumOf_of_isFin ha
    obtain ⟨m, g, hdb⟩ := hf.datumOf_of_isFin hb
    obtain rfl := (valueOf_eq_zero_iff hdb).1 h0'
    rw [hda, hdb, divD_fin_zero _ _ ((valueOf_eq_zero_iff hda).not.1 h0), hf.datumOf_finishOf_inf]
  fin_fin := fun ha hb h0 => by
    obtain ⟨n, e, hda⟩ := hf.datumOf_of_isFin ha
    obtain ⟨m, g, hdb⟩ := hf.datumOf_of_isFin hb
    obtain ⟨q, h, hq, hrep⟩ := exists_divD_eq hf.fbits_le a.msb b.msb n ((valueOf_eq_zero_iff hdb).not.1 h0) e g
    have hval : ((f.valueOf a / f.valueOf b : ℚ) : ℝ) = signedReal (a.msb ^^ b.msb) (n * 2 ^ e / (m * 2 ^ g)) := by
      rw [Fmt.valueOf, Fmt.valueOf, hda, hdb, Rat.cast_div, numberOf_fin, numberOf_fin, signedReal_div]
    rw [hda, hdb, hq, hval]
    exact ⟨hf.isRoundOf_finishOf nan _ (by positivity) hrep, hf.finishOf_fin_msb _ _ _ _⟩

theorem datum64_of_isInf64 {w : W64} (h : isInf64 w = true) : datum64 w = .inf w.msb := by
  rw [isInf64, datum64_eq] at h
  exact b64_fits.datumOf_of_isInf h

theorem isQuotient_fdiv (d : Draw32) (a b : W32) : b32.IsQuotient (k := 31) a b (fdiv d a b) := by
  rw [fdiv, finish32_eq]
  exact b32_fits.isQuotient_finishOf (k := 31) (datum32_bitsOfNaN32 _) a b

theorem isQuotient_fdiv64 (d : Draw64) (a b : W64) : b64.IsQuotient (k := 63) a b (fdiv64 d a b) := by
  rw [fdiv64, finish64_eq]
  exact b64_fits.isQuotient_finishOf (k := 63) (datum64_bitsOfNaN64 _) a b

/-- Settles O33: the one rule of either format, read on binary32 and on binary64. -/
theorem fdivFollowsItsRule : Obligations.FdivFollowsItsRule := by
  refine ⟨fun d a b => ?_, fun d a b => ?_⟩
  · have h := isQuotient_fdiv d a b
    have hzero : ∀ s, packOf 31 s 0 = if s then C_SIGN else C_ZERO := by decide
    exact ⟨h.nan, fun ha hb => h.inf_inf (datum32_of_isInf32 ha) (datum32_of_isInf32 hb), h.zero_zero,
      fun ha => h.inf_fin (datum32_of_isInf32 ha),
      fun ha hb => (h.fin_inf ha (datum32_of_isInf32 hb)).trans (hzero _), h.fin_zero,
      fun ha hb h0 => ⟨(isRound32_iff _ _).2 (h.fin_fin ha hb h0).1, fun _ _ => (h.fin_fin ha hb h0).2⟩⟩
  · have h := isQuotient_fdiv64 d a b
    have hzero : ∀ s, packOf 63 s 0 = if s then 0x8000000000000000 else 0 := by decide
    exact ⟨h.nan, fun ha hb => h.inf_inf (datum64_of_isInf64 ha) (datum64_of_isInf64 hb), h.zero_zero,
      fun ha => h.inf_fin (datum64_of_isInf64 ha),
      fun ha hb => (h.fin_inf ha (datum64_of_isInf64 hb)).trans (hzero _), h.fin_zero,
      fun ha hb h0 => ⟨(isRound64_iff _ _).2 (h.fin_fin ha hb h0).1, fun _ _ => (h.fin_fin ha hb h0).2⟩⟩

/-- The root of a number with sign bit 0 represents the real root. -/
theorem exists_sqrtD_eq (hfb : f.fbits ≤ 61) (n : Nat) (e : Int) :
    ∃ r h, sqrtD (.fin false n e) = .fin false r h ∧ f.Represents (Real.sqrt (n * 2 ^ e)) r h := by
  by_cases hn : n = 0
  · refine ⟨0, e, by simp [sqrtD, hn], .inl ?_⟩
    simp [hn]
  · obtain ⟨r, h, hr, hrep⟩ := exists_rootD_eq hfb hn e
    exact ⟨r, h, by simp [sqrtD, hn, hr], hrep⟩

/-- `r` is the root of `a` as R108 says. -/
structure Fmt.IsRoot (f : Fmt) (a r : BitVec (k + 1)) : Prop where
  nan : (f.datumOf a == .nan) = true → (f.datumOf r == .nan) = true
  zero : ∀ s, a = packOf k s 0 → r = a
  neg : a.msb = true → a ≠ packOf k true 0 → (f.datumOf r == .nan) = true
  inf : a = packOf k false f.infMag → r = a
  pos : isFin (f.datumOf a) = true → a.msb = false → f.IsRoundOf (Real.sqrt ((f.valueOf a : ℚ) : ℝ)) r

theorem Fmt.Fits.isRoot_finishOf (hf : f.Fits k) {nan : BitVec (k + 1)} (hnan : f.datumOf nan = .nan)
    (a : BitVec (k + 1)) : f.IsRoot a (f.finishOf nan (sqrtD (f.datumOf a))) where
  nan := fun h => by rw [beq_iff_eq.1 h]; exact beq_iff_eq.2 hnan
  zero := by
    rintro s rfl
    have hd := (datumOf_packOf f s (Nat.two_pow_pos k)).trans (datum_of_lt f s hf.infMag_pos)
    rw [hd, (sig_eq_zero_iff f 0).2 rfl]
    exact finishOf_fin_zero f nan s _
  neg := fun hs ha => by
    rw [beq_iff_eq]
    rcases hf.datumOf_cases a with ⟨-, hd⟩ | ⟨-, hd⟩ | ⟨-, hd⟩
    · have hn : f.sig (magOf a) ≠ 0 := fun h0 => ha ((hf.eq_packOf_zero_iff hd true).2 ⟨hs, h0⟩)
      rw [hd, hs, sqrtD, if_neg hn, if_pos rfl]
      exact hnan
    · rw [hd, hs]; exact hnan
    · rw [hd]; exact hnan
  inf := by
    rintro rfl
    rw [datumOf_packOf f false hf.infMag_lt, datum_of_eq]
    rfl
  pos := fun hfin hs => by
    obtain ⟨n, e, hd⟩ := hf.datumOf_of_isFin hfin
    obtain ⟨r, h, hr, hrep⟩ := exists_sqrtD_eq hf.fbits_le n e
    rw [Fmt.valueOf, hd, hs, hr, numberOf_fin]
    exact hf.isRoundOf_finishOf nan false (Real.sqrt_nonneg _) hrep

theorem isRoot_fsqrt (d : Draw32) (a : W32) : b32.IsRoot (k := 31) a (fsqrt d a) := by
  rw [fsqrt, finish32_eq]
  exact b32_fits.isRoot_finishOf (k := 31) (datum32_bitsOfNaN32 _) a

theorem isRoot_fsqrt64 (d : Draw64) (a : W64) : b64.IsRoot (k := 63) a (fsqrt64 d a) := by
  rw [fsqrt64, finish64_eq]
  exact b64_fits.isRoot_finishOf (k := 63) (datum64_bitsOfNaN64 _) a

/-- Settles O35: the one rule of either format, read on binary32 and on binary64. -/
theorem fsqrtFollowsItsRule : Obligations.FsqrtFollowsItsRule := by
  refine ⟨fun d a => ?_, fun d a => ?_⟩
  · have h := isRoot_fsqrt d a
    have hneg : packOf 31 true 0 = C_SIGN := by decide
    have hpos : packOf 31 false 0 = C_ZERO := by decide
    have hinf : packOf 31 false b32.infMag = C_PINF := by decide
    refine ⟨h.nan, ?_, fun hs ha => h.neg hs (hneg ▸ ha), fun ha => (h.inf (ha.trans hinf.symm)).trans ha,
      fun hfin hs => (isRound32_iff _ _).2 (h.pos hfin hs)⟩
    rintro (ha | ha)
    · exact h.zero false (ha.trans hpos.symm)
    · exact h.zero true (ha.trans hneg.symm)
  · have h := isRoot_fsqrt64 d a
    have hneg : packOf 63 true 0 = 0x8000000000000000 := by decide
    have hpos : packOf 63 false 0 = 0 := by decide
    have hinf : packOf 63 false b64.infMag = 0x7FF0000000000000 := by decide
    refine ⟨h.nan, ?_, fun hs ha => h.neg hs (hneg ▸ ha), fun ha => (h.inf (ha.trans hinf.symm)).trans ha,
      fun hfin hs => (isRound64_iff _ _).2 (h.pos hfin hs)⟩
    rintro (ha | ha)
    · exact h.zero false (ha.trans hpos.symm)
    · exact h.zero true (ha.trans hneg.symm)

end Sys2Proof.Machine
end

section
/-! Rounding to integers (R113, R119): the integer parts the model computes are those of the values, and a short
integer is a number of the format. -/

namespace Sys2Proof.Machine

theorem zpow_eq_one_div {e : Int} (he : e < 0) : (2 : ℚ) ^ e = 1 / ((2 ^ (-e).toNat : Nat) : ℚ) := by
  obtain ⟨c, rfl⟩ : ∃ c : Nat, e = -c := ⟨(-e).toNat, by omega⟩
  simp

/-- A number with a fraction, as a quotient of integers. -/
theorem numberOf_of_neg (s : Bool) (n : Nat) {e : Int} (he : e < 0) :
    numberOf (.fin s n e) = (signedInt s n : ℚ) / ((2 ^ (-e).toNat : Nat) : ℚ) := by
  rw [numberOf, zpow_eq_one_div he, mul_one_div]

/-- A number without a fraction is an integer. -/
theorem numberOf_of_nonneg (s : Bool) (n : Nat) {e : Int} (he : 0 ≤ e) :
    numberOf (.fin s n e) = (signedInt s (n * 2 ^ e.toNat) : ℤ) := by
  rw [numberOf_eq_shifted s n he, sub_zero, zpow_zero, mul_one]

theorem floor_numberOf_of_neg (s : Bool) (n : Nat) {e : Int} (he : e < 0) :
    ⌊numberOf (.fin s n e)⌋ = signedInt s n / ((2 ^ (-e).toNat : Nat) : ℤ) := by
  rw [numberOf_of_neg s n he, Rat.floor_intCast_div_natCast]

/-- The value of a number, truncated toward zero. -/
def truncValue (v : ℚ) : ℤ := if 0 ≤ v then ⌊v⌋ else ⌈v⌉

theorem truncValue_neg (v : ℚ) : truncValue (-v) = -truncValue v := by
  unfold truncValue
  rcases lt_trichotomy v 0 with h | rfl | h
  · rw [if_pos (by linarith), if_neg (by linarith), Int.floor_neg]
  · simp
  · rw [if_neg (by linarith), if_pos h.le, Int.ceil_neg]

theorem numberOf_true (n : Nat) (e : Int) : numberOf (.fin true n e) = -numberOf (.fin false n e) := by
  simp [numberOf, signedInt]

theorem abs_numberOf (s : Bool) (n : Nat) (e : Int) : |numberOf (.fin s n e)| = n * 2 ^ e := by
  have hpos : (0 : ℚ) ≤ n * 2 ^ e := by positivity
  cases s
  · exact abs_of_nonneg hpos
  · rw [numberOf_true, abs_neg]
    exact abs_of_nonneg hpos

/-- R119: the integer of the model is the truncated value. -/
theorem truncInt_eq (s : Bool) (n : Nat) (e : Int) : truncInt s n e = truncValue (numberOf (.fin s n e)) := by
  have hpos : truncInt false n e = truncValue (numberOf (.fin false n e)) := by
    have hnonneg : 0 ≤ numberOf (.fin false n e) := by
      simp only [numberOf, signedInt, Bool.false_eq_true, if_false]
      positivity
    rw [truncValue, if_pos hnonneg]
    unfold truncInt
    split
    next he => rw [numberOf_of_nonneg _ _ he, Int.floor_intCast]
    next he =>
      rw [floor_numberOf_of_neg _ _ (not_le.1 he)]
      rfl
  cases s
  · exact hpos
  · rw [numberOf_true, truncValue_neg, ← hpos]
    rfl

theorem lt_of_datum32_fin {w : W32} {s : Bool} {n : Nat} {e : Int} (h : datum32 w = .fin s n e) : n < 2 ^ 24 := by
  obtain ⟨-, -, rfl, -⟩ := b32_fits.of_datumOf_fin (k := 31) h
  exact sig_lt b32 _

/-- An integer of at most 24 bits is a number of binary32. -/
theorem finish32_int (x : NaN32) (s : Bool) {n : Nat} (hn : n < 2 ^ 24) :
    isFin32 (finish32 x (.fin s n 0)) = true ∧ value32 (finish32 x (.fin s n 0)) = signedInt s n := by
  have hlt : (n * 2 ^ (0 : ℤ) : ℝ) < b32.overflow := by
    have hnR : (n : ℝ) < 2 ^ 24 := by exact_mod_cast hn
    rw [b32_overflow, zpow_zero]
    norm_num at hnR ⊢
    linarith
  obtain ⟨hfin, hval⟩ := b32_fits.finishOf_exact (k := 31) (bitsOfNaN32 x) s hn (by decide) hlt
  refine ⟨hfin, hval.trans ?_⟩
  rw [numberOf, zpow_zero, mul_one]

theorem signedInt_natAbs (s : Bool) (n : Nat) : (signedInt s n).natAbs = n := by
  cases s <;> simp [signedInt]

/-- R113 on a number without a fraction. -/
theorem floorD_self (s : Bool) {n : Nat} {e : Int} (h : n = 0 ∨ 0 ≤ e) : floorD (.fin s n e) = .fin s n e := by
  by_cases hn : n = 0
  · simp [floorD, hn]
  · simp only [floorD, if_neg hn, if_pos (h.resolve_left hn)]

/-- R113 on a number with a fraction. -/
theorem floorD_of_neg (s : Bool) {n : Nat} (hn : n ≠ 0) {e : Int} (he : e < 0) :
    floorD (.fin s n e) = .fin (decide (⌊numberOf (.fin s n e)⌋ < 0)) ⌊numberOf (.fin s n e)⌋.natAbs 0 := by
  rw [floor_numberOf_of_neg s n he]
  simp only [floorD, if_neg hn, if_neg (not_le.2 he)]
  push_cast
  rfl

section
variable (d : Draw32) {a : W32} {s : Bool} {n : Nat} {e : Int}

theorem ffloor_self (hd : datum32 a = .fin s n e) (h : n = 0 ∨ 0 ≤ e) : ffloor d a = a := by
  rw [ffloor, hd, floorD_self s h, ← hd]
  exact finish32_datum32 _ (by rw [hd]; exact Datum.noConfusion)

theorem ffloor_of_fraction (hd : datum32 a = .fin s n e) (hn : n ≠ 0) (he : e < 0) :
    ffloor d a = finish32 (d .ffloor [a]) (.fin (decide (⌊value32 a⌋ < 0)) ⌊value32 a⌋.natAbs 0) := by
  rw [ffloor, value32, hd, floorD_of_neg s hn he]

/-- A number without a fraction is its own floor. -/
theorem floor_value32_self (hd : datum32 a = .fin s n e) (h : n = 0 ∨ 0 ≤ e) : (⌊value32 a⌋ : ℚ) = value32 a := by
  rw [value32, hd]
  rcases h with rfl | he
  · simp [(numberOf_eq_zero_iff s 0 e).2 rfl]
  · rw [numberOf_of_nonneg s n he, Int.floor_intCast]

theorem natAbs_floor_value32_lt (hd : datum32 a = .fin s n e) (he : e < 0) : ⌊value32 a⌋.natAbs < 2 ^ 24 := by
  rw [value32, hd, floor_numberOf_of_neg s n he]
  calc _ ≤ (signedInt s n).natAbs := Int.natAbs_ediv_le_natAbs _ _
    _ = n := signedInt_natAbs s n
    _ < 2 ^ 24 := lt_of_datum32_fin hd

end

/-- R113: a number's floor, exactly. -/
theorem ffloor_of_isFin32 (d : Draw32) {a : W32} (h : isFin32 a = true) :
    isFin32 (ffloor d a) = true ∧ value32 (ffloor d a) = (⌊value32 a⌋ : ℚ) := by
  obtain ⟨n, e, hd⟩ := datum32_of_isFin32 h
  by_cases hint : n = 0 ∨ 0 ≤ e
  · rw [ffloor_self d hd hint, floor_value32_self hd hint]
    exact ⟨h, rfl⟩
  · obtain ⟨hn, he⟩ := not_or.1 hint
    have hlt := natAbs_floor_value32_lt hd (not_le.1 he)
    rw [ffloor_of_fraction d hd hn (not_le.1 he)]
    obtain ⟨hfin, hval⟩ := finish32_int (d .ffloor [a]) (decide (⌊value32 a⌋ < 0)) hlt
    refine ⟨hfin, hval.trans ?_⟩
    rw [signedInt_decide_natAbs]

/-- Settles O36: an operand without a fraction comes back, and the floor of any other is a short integer. -/
theorem ffloorFollowsItsRule : Obligations.FfloorFollowsItsRule := by
  refine fun d a => ⟨fun h => ?_, fun h => ?_, fun h => ffloor_of_isFin32 d h, fun h h0 hfloor => ?_, fun h hbig => ?_⟩
  · rw [ffloor, (isNaN32_iff a).1 h]
    exact isNaN32_finish32_nan _
  · rcases h with h | rfl | rfl
    · rw [ffloor, datum32_of_isInf32 h]
      exact finish32_inf _ h
    · exact ffloor_self d (show datum32 C_ZERO = .fin false 0 (-149) by decide) (.inl rfl)
    · exact ffloor_self d (show datum32 C_SIGN = .fin true 0 (-149) by decide) (.inl rfl)
  · obtain ⟨n, e, hd⟩ := datum32_of_isFin32 h
    by_cases hint : n = 0 ∨ 0 ≤ e
    · have hval := floor_value32_self hd hint
      rw [hfloor, Int.cast_zero] at hval
      exact absurd hval.symm h0
    · obtain ⟨hn, he⟩ := not_or.1 hint
      rw [ffloor_of_fraction d hd hn (not_le.1 he), hfloor]
      exact finish32_zero _ false 0
  · obtain ⟨n, e, hd⟩ := datum32_of_isFin32 h
    refine ffloor_self d hd (.inr ?_)
    by_contra he
    have hn : (n : ℚ) < 2 ^ 24 := by exact_mod_cast lt_of_datum32_fin hd
    have he2 : (2 : ℚ) ^ e ≤ 2 ^ (-1 : ℤ) := zpow_le_zpow_right₀ (by norm_num) (by omega)
    rw [value32, hd, abs_numberOf] at hbig
    have hlt : (n : ℚ) * 2 ^ e < 2 ^ 24 * 2 ^ (-1 : ℤ) := mul_lt_mul hn he2 (by positivity) (by norm_num)
    norm_num at hlt hbig
    linarith

end Sys2Proof.Machine
end

section
/-! Comparison by value (R114), and the maximum and the minimum by it (R111, R112): the model's comparison is the
order of the places on the extended line. -/

namespace Sys2Proof.Machine

/-- The place of a datum that is no NaN on the extended line (`place32`). -/
noncomputable def placeOf : Datum → EReal
  | .inf neg => if neg then ⊥ else ⊤
  | d => (((numberOf d : ℚ) : ℝ) : EReal)

theorem place32_eq (w : W32) : place32 w = placeOf (datum32 w) := rfl

theorem placeOf_fin (s : Bool) (n : Nat) (e : Int) :
    placeOf (.fin s n e) = (((numberOf (.fin s n e) : ℚ) : ℝ) : EReal) := rfl

/-- Numbers compare as the integers they are in units of a power of two. -/
theorem cmp_placeOf_fin (s t : Bool) (n m : Nat) (e g : Int) :
    cmpD (.fin s n e) (.fin t m g) = some (cmp (placeOf (.fin s n e)) (placeOf (.fin t m g))) := by
  have hmono : StrictMono fun v : ℤ => (((v * 2 ^ min e g : ℚ) : ℝ) : EReal) := fun v w hvw =>
    EReal.coe_lt_coe_iff.2 (Rat.cast_lt.2 (mul_lt_mul_of_pos_right (Int.cast_lt.2 hvw) (by positivity)))
  rw [placeOf_fin, placeOf_fin, numberOf_eq_shifted s n (min_le_left e g), numberOf_eq_shifted t m (min_le_right e g),
    hmono.cmp_map_eq, cmp_eq_compare]
  rfl

theorem placeOf_fin_lt_top (s : Bool) (n : Nat) (e : Int) : placeOf (.fin s n e) < ⊤ := EReal.coe_lt_top _

theorem bot_lt_placeOf_fin (s : Bool) (n : Nat) (e : Int) : ⊥ < placeOf (.fin s n e) := EReal.bot_lt_coe _

theorem cmpD_nan_right (x : Datum) : cmpD x .nan = none := by cases x <;> rfl

/-- R114: two data that are no NaN compare as their places do. -/
theorem cmpD_eq_cmp {x y : Datum} (hx : x ≠ .nan) (hy : y ≠ .nan) : cmpD x y = some (cmp (placeOf x) (placeOf y)) := by
  cases x with
  | nan => exact absurd rfl hx
  | inf s =>
    cases y with
    | nan => exact absurd rfl hy
    | inf t =>
      cases s <;> cases t
      case false.false => exact congrArg some (cmp_self_eq_eq _).symm
      case false.true => exact congrArg some ((cmp_eq_gt_iff _ _).2 bot_lt_top).symm
      case true.false => exact congrArg some ((cmp_eq_lt_iff _ _).2 bot_lt_top).symm
      case true.true => exact congrArg some (cmp_self_eq_eq _).symm
    | fin t m g =>
      cases s
      · exact congrArg some ((cmp_eq_gt_iff _ _).2 (placeOf_fin_lt_top t m g)).symm
      · exact congrArg some ((cmp_eq_lt_iff _ _).2 (bot_lt_placeOf_fin t m g)).symm
  | fin s n e =>
    cases y with
    | nan => exact absurd rfl hy
    | inf t =>
      cases t
      · exact congrArg some ((cmp_eq_lt_iff _ _).2 (placeOf_fin_lt_top s n e)).symm
      · exact congrArg some ((cmp_eq_gt_iff _ _).2 (bot_lt_placeOf_fin s n e)).symm
    | fin t m g => exact cmp_placeOf_fin s t n m e g

/-- The comparison of two patterns: none with a NaN, and else the order of their places. -/
theorem cmpD_datum32 (a b : W32) :
    ((isNaN32 a = true ∨ isNaN32 b = true) ∧ cmpD (datum32 a) (datum32 b) = none) ∨
      (isNaN32 a = false ∧ isNaN32 b = false ∧
        cmpD (datum32 a) (datum32 b) = some (cmp (place32 a) (place32 b))) := by
  cases ha : isNaN32 a with
  | true => exact .inl ⟨.inl rfl, by rw [(isNaN32_iff a).1 ha]; rfl⟩
  | false =>
    cases hb : isNaN32 b with
    | true => exact .inl ⟨.inr rfl, by rw [(isNaN32_iff b).1 hb, cmpD_nan_right]⟩
    | false =>
      rw [place32_eq, place32_eq]
      exact .inr ⟨rfl, rfl, cmpD_eq_cmp ((isNaN32_eq_false_iff a).1 ha) ((isNaN32_eq_false_iff b).1 hb)⟩

theorem maskOf_eq_true_iff (c : Bool) : maskOf c = TRUE32 ↔ c = true := by
  cases c <;> decide

theorem maskOf_canonical (c : Bool) : maskOf c = TRUE32 ∨ maskOf c = FALSE32 := by
  cases c
  · exact .inr rfl
  · exact .inl rfl

theorem cmpD_eq_some_iff (a b : W32) (o : Ordering) :
    cmpD (datum32 a) (datum32 b) = some o ↔
      isNaN32 a = false ∧ isNaN32 b = false ∧ cmp (place32 a) (place32 b) = o := by
  rcases cmpD_datum32 a b with ⟨hnan, hc⟩ | ⟨ha, hb, hc⟩
  · rw [hc]
    refine iff_of_false nofun ?_
    rintro ⟨ha, hb, -⟩
    simp [ha, hb] at hnan
  · simp [hc, ha, hb]

theorem cmpD_eq_none_iff (a b : W32) :
    cmpD (datum32 a) (datum32 b) = none ↔ isNaN32 a = true ∨ isNaN32 b = true := by
  rcases cmpD_datum32 a b with ⟨hnan, hc⟩ | ⟨ha, hb, hc⟩
  · exact iff_of_true hc hnan
  · simp [hc, ha, hb]

theorem cmpGT_iff (a b : W32) :
    cmpGT a b = TRUE32 ↔ isNaN32 a = false ∧ isNaN32 b = false ∧ place32 b < place32 a := by
  rw [cmpGT, maskOf_eq_true_iff, beq_iff_eq, cmpD_eq_some_iff, cmp_eq_gt_iff]

theorem cmpLT_iff (a b : W32) :
    cmpLT a b = TRUE32 ↔ isNaN32 a = false ∧ isNaN32 b = false ∧ place32 a < place32 b := by
  rw [cmpLT, maskOf_eq_true_iff, beq_iff_eq, cmpD_eq_some_iff, cmp_eq_lt_iff]

theorem cmpEQ_iff (a b : W32) :
    cmpEQ a b = TRUE32 ↔ isNaN32 a = false ∧ isNaN32 b = false ∧ place32 a = place32 b := by
  rw [cmpEQ, maskOf_eq_true_iff, beq_iff_eq, cmpD_eq_some_iff, cmp_eq_eq_iff]

theorem cmpGE_iff (a b : W32) :
    cmpGE a b = TRUE32 ↔ isNaN32 a = false ∧ isNaN32 b = false ∧ place32 b ≤ place32 a := by
  rw [cmpGE, maskOf_eq_true_iff, Bool.or_eq_true, beq_iff_eq, beq_iff_eq, cmpD_eq_some_iff, cmpD_eq_some_iff,
    cmp_eq_gt_iff, cmp_eq_eq_iff, le_iff_lt_or_eq, eq_comm (a := place32 b)]
  tauto

theorem cmpNGE_iff (a b : W32) :
    cmpNGE a b = TRUE32 ↔ isNaN32 a = true ∨ isNaN32 b = true ∨ place32 a < place32 b := by
  rw [cmpNGE, maskOf_eq_true_iff, Bool.or_eq_true, beq_iff_eq, beq_iff_eq, cmpD_eq_none_iff, cmpD_eq_some_iff,
    cmp_eq_lt_iff]
  simp only [← Bool.not_eq_true]
  tauto

/-- Settles O37: each comparison is a set of outcomes of the one comparison by value. -/
theorem comparisonsAreByValue : Obligations.ComparisonsAreByValue := by
  refine fun a b => ⟨cmpGT_iff a b, cmpGE_iff a b, cmpLT_iff a b, cmpNGE_iff a b, cmpEQ_iff a b, fun m hm => ?_⟩
  simp only [List.mem_cons, List.not_mem_nil, or_false] at hm
  rcases hm with rfl | rfl | rfl | rfl | rfl <;> exact maskOf_canonical _

/-- Settles O38: the choice is by the greater and the less comparison, and where that is false the second operand
stands. -/
theorem maxAndMinChooseByOrder : Obligations.MaxAndMinChooseByOrder := by
  refine fun a b => ⟨fun ha hb h => if_pos ((cmpGT_iff a b).2 ⟨ha, hb, h⟩), fun h => if_neg fun hgt => ?_,
    fun ha hb h => if_pos ((cmpLT_iff a b).2 ⟨ha, hb, h⟩), fun h => if_neg fun hlt => ?_⟩
  · obtain ⟨ha, hb, hba⟩ := (cmpGT_iff a b).1 hgt
    rcases h with h | h | h
    · exact Bool.false_ne_true (ha.symm.trans h)
    · exact Bool.false_ne_true (hb.symm.trans h)
    · exact h.not_gt hba
  · obtain ⟨ha, hb, hab⟩ := (cmpLT_iff a b).1 hlt
    rcases h with h | h | h
    · exact Bool.false_ne_true (ha.symm.trans h)
    · exact Bool.false_ne_true (hb.symm.trans h)
    · exact h.not_gt hab

theorem select_true32 (a b : W32) : select TRUE32 a b = a := by
  rw [select, vor, vand, vandnot, show ~~~TRUE32 = 0#32 from rfl, show TRUE32 = BitVec.allOnes 32 from rfl,
    BitVec.allOnes_and, BitVec.zero_and, BitVec.or_zero]

theorem select_false32 (a b : W32) : select FALSE32 a b = b := by
  rw [select, vor, vand, vandnot, show ~~~FALSE32 = BitVec.allOnes 32 from rfl, show FALSE32 = 0#32 from rfl,
    BitVec.allOnes_and, BitVec.zero_and, BitVec.zero_or]

/-- Settles O39: the operations are the bitwise ones, and a mask is all ones or all zeros. -/
theorem selectChoosesByMask : Obligations.SelectChoosesByMask := by
  refine fun m a b => ⟨rfl, rfl, rfl, rfl, rfl, ?_, ?_⟩
  · rintro rfl
    exact select_true32 a b
  · rintro rfl
    exact select_false32 a b

end Sys2Proof.Machine
end

section
/-! The two paths of a shift (R127): both act in each lane alone, so the setting that chooses between them changes no
result. -/

namespace Sys2Proof.Machine

theorem vshl_path (wide wide' : Bool) (v : Lanes32) (n : Nat) : vshl wide v n = vshl wide' v n := by
  funext i
  rw [vshl_apply, vshl_apply]

theorem vshr_path (wide wide' : Bool) (v : Lanes32) (n : Nat) : vshr wide v n = vshr wide' v n := by
  funext i
  rw [vshr_apply, vshr_apply]

theorem psinLanes_path (cfg : Cfg) (wide : Bool) (d : Fin 8 → Draws32) (a : Lanes32) :
    psinLanes { cfg with wideShift := wide } d a = psinLanes cfg d a := by
  unfold psinLanes sflip
  rw [vshl_path wide cfg.wideShift]
  rfl

theorem plogLanes_path (cfg : Cfg) (wide : Bool) (d : Fin 8 → Draws32) (a : Lanes32) :
    plogLanes { cfg with wideShift := wide } d a = plogLanes cfg d a := by
  unfold plogLanes rrLog expoF
  rw [vshr_path wide cfg.wideShift]
  rfl

theorem pexpLanes_path (cfg : Cfg) (wide : Bool) (d : Fin 8 → Draws32) (a : Lanes32) :
    pexpLanes { cfg with wideShift := wide } d a = pexpLanes cfg d a := by
  unfold pexpLanes expValue pow2F
  rw [vshl_path wide cfg.wideShift]
  rfl

/-- Only the three operations with a shift read the setting at all. -/
theorem resultOf_path (env : Env) (cfg : Cfg) (wide : Bool) (i : Instr) (a : Vec) :
    resultOf env { cfg with wideShift := wide } i a = resultOf env cfg i a := by
  cases i with
  | psinF32 => exact congrArg ofLanes32 (psinLanes_path cfg wide _ _)
  | plogF32 => exact congrArg ofLanes32 (plogLanes_path cfg wide _ _)
  | pexpF32 => exact congrArg ofLanes32 (pexpLanes_path cfg wide _ _)
  | psqrtF32 => rfl
  | prsqrtF32 => rfl
  | psqrtF64 => rfl
  | prsqrtF64 => rfl

/-- Settles O29: the paths agree lane by lane, and either setting gives the result of the other. -/
theorem wideAndSplitShiftAgree : Obligations.WideAndSplitShiftAgree :=
  ⟨fun v n => ⟨vshl_path true false v n, vshr_path true false v n⟩, fun env cfg i a =>
    (resultOf_path env cfg true i a).trans (resultOf_path env cfg false i a).symm⟩

end Sys2Proof.Machine
end

section
/-! The conversions and the compositions over them (R119, R128 to R131). -/

namespace Sys2Proof.Machine

/-- The signed 32-bit integers (R119). -/
def InRange32 (t : ℤ) : Prop := -2 ^ 31 ≤ t ∧ t ≤ 2 ^ 31 - 1

theorem cvttF2I_of_not_isFin32 {a : W32} (h : isFin32 a = false) : cvttF2I a = intIndefinite := by
  unfold cvttF2I
  unfold isFin32 at h
  cases hd : datum32 a with
  | nan => rfl
  | inf s => rfl
  | fin s n e => rw [hd] at h; cases h

theorem cvttF2I_of_isFin32 {a : W32} (h : isFin32 a = true) :
    (InRange32 (truncValue (value32 a)) → cvttF2I a = BitVec.ofInt 32 (truncValue (value32 a))) ∧
      (¬ InRange32 (truncValue (value32 a)) → cvttF2I a = intIndefinite) := by
  obtain ⟨n, e, hd⟩ := datum32_of_isFin32 h
  unfold cvttF2I value32
  rw [hd, ← truncInt_eq]
  exact ⟨fun hin => if_pos hin, fun hout => if_neg hout⟩

/-- Settles O40: the integer of the model is the truncated value, and in range its pattern is that integer. -/
theorem conversionTruncates : Obligations.ConversionTruncates := by
  refine fun a => ⟨cvttF2I_of_not_isFin32, fun h => ?_⟩
  obtain ⟨hin, hout⟩ := cvttF2I_of_isFin32 h
  refine ⟨fun hlo hhi => ?_, fun hor => hout fun hr => ?_⟩
  · have hlo' : -2 ^ 31 ≤ truncValue (value32 a) := hlo
    have hhi' : truncValue (value32 a) ≤ 2 ^ 31 - 1 := hhi
    refine (congrArg BitVec.toInt (hin ⟨hlo, hhi⟩)).trans ?_
    rw [BitVec.toInt_ofInt, Int.bmod_eq_of_le (by omega) (by omega)]
    rfl
  · exact hor.elim hr.1.not_gt hr.2.not_gt

/-- The low bit of a word at bit 31. -/
theorem shl_vand_one (w : W32) : shl (vand w 1) 31 = if w.toNat % 2 = 1 then 0x80000000 else 0 := by
  have hand : vand w 1 = BitVec.ofNat 32 (w.toNat % 2) := by
    apply BitVec.eq_of_toNat_eq
    rw [vand, BitVec.toNat_and, BitVec.toNat_ofNat, show (1 : W32).toNat = 1 from rfl, Nat.and_one_is_mod]
    omega
  rw [hand]
  rcases Nat.mod_two_eq_zero_or_one w.toNat with h | h
  · rw [h]; rfl
  · rw [h]; rfl

theorem toNat_ofInt_mod_two (t : ℤ) : (BitVec.ofInt 32 t).toNat % 2 = 1 ↔ t % 2 = 1 := by
  rw [BitVec.toNat_ofInt]
  omega

theorem sflip_of_intIndefinite {wide : Bool} {x : Lanes32} {i : Fin 8} (h : cvttF2I (x i) = intIndefinite) :
    sflip wide x i = 0 := by
  rw [sflip_apply, h]
  rfl

/-- Settles O43: the mask is the low bit of the converted integer, which is that of the truncated value, and of
0x80000000 it is 0. -/
theorem signFlipIsParity : Obligations.SignFlipIsParity := by
  refine fun wide x i => ⟨fun h => sflip_of_intIndefinite (cvttF2I_of_not_isFin32 h), fun h => ?_⟩
  obtain ⟨hin, hout⟩ := cvttF2I_of_isFin32 h
  refine ⟨fun hor => sflip_of_intIndefinite (hout fun hr => hor.elim hr.1.not_gt hr.2.not_gt), fun hlo hhi => ?_⟩
  rw [sflip_apply, hin ⟨hlo, hhi⟩, shl_vand_one]
  exact if_congr (toNat_ofInt_mod_two _) rfl rfl

theorem truncValue_intCast (m : ℤ) : truncValue m = m := by
  unfold truncValue
  rw [Int.floor_intCast, Int.ceil_intCast, ite_self]

/-- R129: the biased exponent is put in the exponent field. -/
theorem pow2F_eq_packOf (wide : Bool) {x : Lanes32} {i : Fin 8} (hfin : isFin32 (x i) = true) {c : Nat} (hc : c ≤ 255)
    (hval : value32 (x i) = (((c : ℤ) - 127 : ℤ) : ℚ)) : pow2F wide x i = packOf 31 false (c * 2 ^ 23) := by
  have htrunc : truncValue (value32 (x i)) = (c : ℤ) - 127 := by rw [hval, truncValue_intCast]
  have hcvt : cvttF2I (x i) = BitVec.ofInt 32 ((c : ℤ) - 127) := by
    rw [(cvttF2I_of_isFin32 hfin).1 (by rw [htrunc]; exact ⟨by omega, by omega⟩), htrunc]
  have hadd : iadd (cvttF2I (x i)) 127 = BitVec.ofNat 32 c := by
    rw [hcvt, iadd, show (127 : W32) = BitVec.ofInt 32 127 from rfl, ← BitVec.ofInt_add, sub_add_cancel,
      BitVec.ofInt_natCast]
  rw [pow2F_apply, hadd]
  apply BitVec.eq_of_toNat_eq
  rw [toNat_packOf false (by omega), castI2F, shl, BitVec.toNat_shiftLeft, BitVec.toNat_ofNat,
    Nat.mod_eq_of_lt (a := c) (by omega), Nat.shiftLeft_eq, Nat.mod_eq_of_lt (by omega)]
  simp

/-- The value of the pattern with sign bit 0 and the bits `m` below it. -/
theorem value32_packOf {m : Nat} (h : m < b32.infMag) :
    isFin32 (packOf 31 false m) = true ∧ ((value32 (packOf 31 false m) : ℚ) : ℝ) = b32.grid m := by
  have hlt : m < 2 ^ 31 := h.trans b32_fits.infMag_lt
  have hmag : magOf (packOf 31 false m) = m := magOf_packOf false hlt
  refine ⟨(b32_fits.isFin_iff _).2 (by rwa [hmag]), ?_⟩
  refine (valueOf_eq_signedReal b32 (by rwa [hmag])).trans ?_
  rw [packOf_msb false hlt, hmag]
  rfl

/-- Settles O42: `m + 127` is the exponent field, and a pattern with no fraction and that field is `2^m`. -/
theorem exponentInjectionBuildsPowers : Obligations.ExponentInjectionBuildsPowers := by
  intro wide x i m hfin hval
  refine ⟨fun hlo hhi => ?_, fun hm => ?_, fun hm => ?_⟩
  · obtain ⟨c, rfl⟩ : ∃ c : Nat, m = ((c + 1 : Nat) : ℤ) - 127 := ⟨(m + 126).toNat, by omega⟩
    rw [pow2F_eq_packOf wide hfin (by omega) hval]
    obtain ⟨hfin', hgrid⟩ := value32_packOf (m := (c + 1) * 2 ^ 23) (by rw [b32_infMag]; omega)
    refine ⟨hfin', Rat.cast_injective (α := ℝ) (hgrid.trans ?_)⟩
    have hexp : (((c + 1 : Nat) : ℤ) - 127) = b32.emin + c + (b32.fbits : Nat) := by
      rw [show b32.emin = -149 by decide, show b32.fbits = 23 from rfl]
      omega
    rw [Nat.add_mul, Nat.one_mul, Rat.cast_zpow, Rat.cast_ofNat, zpow_eq_pow_mul hexp]
    refine (grid_mul_add b32 (j := c) (s := 2 ^ 23) (by decide) (.inr (le_refl _))).trans ?_
    rw [show b32.fbits = 23 from rfl]
    norm_num
  · subst hm
    rw [pow2F_eq_packOf wide hfin (c := 0) (by omega) hval]
    decide
  · subst hm
    rw [pow2F_eq_packOf wide hfin (c := 255) (by omega) hval]
    decide

/-- R120: a small integer is converted exactly. -/
theorem cvtI2F_of_lt {w : W32} (h : w.toNat < 2 ^ 24) :
    isFin32 (cvtI2F w) = true ∧ value32 (cvtI2F w) = (w.toNat : ℚ) := by
  have hmsb : w.msb = false := by
    rw [BitVec.msb_eq_decide, decide_eq_false_iff_not]
    omega
  have hint : w.toInt.natAbs = w.toNat := by rw [BitVec.toInt_eq_toNat_of_msb hmsb, Int.natAbs_natCast]
  have hfinish : cvtI2F w = finish32 default (.fin false w.toNat 0) := by rw [cvtI2F, hmsb, hint, finish32]
  rw [hfinish]
  exact finish32_int default false h

/-- Settles O41: the shifted pattern is the exponent field, and an integer of 8 bits is converted exactly. -/
theorem exponentExtractionIsExact : Obligations.ExponentExtractionIsExact := by
  intro wide x i hs
  have hx : (x i).toNat < 2 ^ 31 := by
    rw [BitVec.msb_eq_decide, decide_eq_false_iff_not] at hs
    omega
  have hshift : (shr (castF2I (x i)) 23).toNat = (x i).toNat / 2 ^ 23 := by
    rw [shr, castF2I, BitVec.toNat_ushiftRight, Nat.shiftRight_eq_div_pow]
  have hfield : ((x i).extractLsb' 23 8).toNat = (x i).toNat / 2 ^ 23 := by
    rw [BitVec.extractLsb'_toNat, Nat.shiftRight_eq_div_pow, Nat.mod_eq_of_lt (by omega)]
  rw [expoF_apply, hfield, ← hshift]
  exact cvtI2F_of_lt (by omega)

/-- The three fields of `mant_half` (R131). -/
theorem mantHalf_fields (x : W32) :
    (mantHalf x).msb = x.msb ∧ (mantHalf x).extractLsb' 0 23 = x.extractLsb' 0 23 ∧
      (mantHalf x).extractLsb' 23 8 = 126 := by
  refine ⟨?_, ?_, ?_⟩
  · rw [mantHalf, vor, vand, BitVec.msb_or, BitVec.msb_and, show C_MANT.msb = true from rfl,
      show C_HALF.msb = false from rfl, Bool.and_true, Bool.or_false]
  · rw [mantHalf, vor, vand, BitVec.extractLsb'_or, BitVec.extractLsb'_and,
      show C_MANT.extractLsb' 0 23 = BitVec.allOnes 23 from rfl, show C_HALF.extractLsb' 0 23 = 0#23 from rfl,
      BitVec.and_allOnes, BitVec.or_zero]
  · rw [mantHalf, vor, vand, BitVec.extractLsb'_or, BitVec.extractLsb'_and,
      show C_MANT.extractLsb' 23 8 = 0#8 from rfl, show C_HALF.extractLsb' 23 8 = 126#8 from rfl,
      BitVec.and_zero, BitVec.zero_or]
    rfl

/-- A pattern with sign bit 0 and exponent field 126 is a number from 1/2 to 1. -/
theorem value32_of_expo_126 {w : W32} (hs : w.msb = false) (he : w.extractLsb' 23 8 = 126) :
    isFin32 w = true ∧ 1 / 2 ≤ value32 w ∧ value32 w < 1 := by
  have hlt : w.toNat < 2 ^ 31 := by
    rw [BitVec.msb_eq_decide, decide_eq_false_iff_not] at hs
    omega
  have hexp : w.toNat / 2 ^ 23 = 126 := by
    have hn := congrArg BitVec.toNat he
    rw [BitVec.extractLsb'_toNat, Nat.shiftRight_eq_div_pow, Nat.mod_eq_of_lt (by omega)] at hn
    exact hn
  obtain ⟨frac, hfrac, hmag⟩ : ∃ frac < 2 ^ 23, w.toNat = 125 * 2 ^ 23 + (2 ^ 23 + frac) :=
    ⟨w.toNat % 2 ^ 23, by omega, by omega⟩
  have hw : packOf 31 false (125 * 2 ^ 23 + (2 ^ 23 + frac)) = w :=
    BitVec.eq_of_toNat_eq (by rw [toNat_packOf false (by omega), hmag]; simp)
  obtain ⟨hfin, hval⟩ := value32_packOf (m := 125 * 2 ^ 23 + (2 ^ 23 + frac)) (by rw [b32_infMag]; omega)
  have hgrid : b32.grid (125 * 2 ^ 23 + (2 ^ 23 + frac)) = (2 ^ 23 + frac : Nat) * 2 ^ (b32.emin + (125 : Nat)) :=
    grid_mul_add b32 (by simp only [b32]; omega) (.inr (Nat.le_add_right _ _))
  rw [hw, hgrid, show b32.emin = -149 by decide] at hval
  have hfracR : (frac : ℝ) < 8388608 := by exact_mod_cast hfrac
  have hfrac0 : (0 : ℝ) ≤ frac := Nat.cast_nonneg frac
  have hbounds : (1 / 2 : ℝ) ≤ (value32 w : ℚ) ∧ ((value32 w : ℚ) : ℝ) < 1 := by
    rw [hval]
    norm_num
    constructor <;> linarith
  refine ⟨hw ▸ hfin, ?_, by exact_mod_cast hbounds.2⟩
  have hhalf : (((1 / 2 : ℚ)) : ℝ) ≤ (value32 w : ℚ) := by
    push_cast
    exact hbounds.1
  exact_mod_cast hhalf

/-- Settles O44: the masks of the two constants, field by field, and the value by the fields. -/
theorem mantissaIsNormalised : Obligations.MantissaIsNormalised := by
  intro x
  obtain ⟨hsign, hfrac, hexp⟩ := mantHalf_fields x
  exact ⟨hsign, hfrac, hexp, fun hs => value32_of_expo_126 (hsign.trans hs) hexp⟩

end Sys2Proof.Machine
end

section
/-! The sub-blocks line by line (41_poly_range.md R165 to R171, 42_sqrt_rsqrt.md R202), and the admissibility of the
reference table `KE` (R172). -/

namespace Sys2Proof.Machine

/-- R165: the Horner lines from line `4 + k` on are a fold over the coefficients numbered from `k` on. -/
theorem hornerExp_eq_foldl (fused : Bool) (d : Draws32) (r : W32) (ps : List W32) (k : Nat) (y : W32) :
    hornerExp fused d r (4 + k) ps y =
      (ps.zipIdx k).foldl (fun y p => pmadd fused (d 165 (4 + p.2)) y r p.1) y := by
  induction ps generalizing k y with
  | nil => rfl
  | cons p ps ih => exact ih (k + 1) _

theorem expPoly_eq (cfg : Cfg) (d : Draws32) (r : W32) :
    expPoly cfg d r =
      fadd (d 165 3) (pmadd cfg.fma (d 165 2)
        (cfg.ke.E_PS.zipIdx.foldl (fun y p => pmadd cfg.fma (d 165 (4 + p.2)) y r p.1) cfg.ke.E_P0)
        (fmul (d 165 1) r r) r) C_ONE := by
  rw [← hornerExp_eq_foldl cfg.fma d r cfg.ke.E_PS 0 cfg.ke.E_P0]
  rfl

theorem expRemainder_fused {cfg : Cfg} (h : cfg.fma = true) (d : Draws32) (x m : W32) :
    expRemainder cfg d x m = fma (d 170 3) m cfg.ke.E_NLN2 x := if_pos h

theorem expRemainder_unfused {cfg : Cfg} (h : cfg.fma = false) (d : Draws32) (x m : W32) :
    expRemainder cfg d x m =
      fsub (d 170 5) (fsub (d 170 4) x (fmul (d 170 4) m cfg.ke.E_C1)) (fmul (d 170 5) m cfg.ke.E_C2) :=
  if_neg (Bool.eq_false_iff.1 h)

/-- Settles O45: `exp_poly` by its fold, `rr_exp` by the setting of `CFG_FMA`; the other blocks are defined as their
lines. -/
theorem subBlocksFollowTheirLines : Obligations.SubBlocksFollowTheirLines := fun cfg d a _ =>
  ⟨expPoly_eq cfg d a, rfl, rfl, rfl, rfl,
    ⟨fun h => congrArg (Prod.mk _) (expRemainder_fused h d _ _),
      fun h => congrArg (Prod.mk _) (expRemainder_unfused h d _ _)⟩,
    ⟨rfl, rfl, rfl, rfl⟩, fun _ => rfl⟩

/-- R107: a multiply-add gives `r` under both settings when its one rounding does and its two roundings do. -/
theorem pmadd_eq_of_both {d : Draw32} {a b c p r : W32} (hfused : fma d a b c = r) (hmul : fmul d a b = p)
    (hadd : fadd d p c = r) (fused : Bool) : pmadd fused d a b c = r := by
  cases fused
  · exact (congrArg (fadd d · c) hmul).trans hadd
  · exact hfused

/-- R170, line 2, at the clamps of the reference table and at the pattern after the upper one: the sums are the pattern
below 128, the one below 127 with its sign inverted, and 128. -/
theorem pmadd_at_reference_clamps (fused : Bool) (d : Draw32) :
    pmadd fused d 0x42B0C0A5 referenceKE.E_LOG2EF C_HALF = 0x42FFFFFF ∧
      pmadd fused d 0xC2B0C0A5 referenceKE.E_LOG2EF C_HALF = 0xC2FDFFFF ∧
      pmadd fused d 0x42B0C0A6 referenceKE.E_LOG2EF C_HALF = 0x43000000 :=
  ⟨pmadd_eq_of_both (p := 0x42FEFFFF) rfl rfl rfl fused, pmadd_eq_of_both (p := 0xC2FEFFFF) rfl rfl rfl fused,
    pmadd_eq_of_both (p := 0x42FF0000) rfl rfl rfl fused⟩

/-- `m` of R170 at these three patterns: 127, -127 and 128. -/
theorem expM_at_reference_clamps {cfg : Cfg} (h : cfg.ke.E_LOG2EF = referenceKE.E_LOG2EF) (d : Draws32) :
    expM cfg d 0x42B0C0A5 = 0x42FE0000 ∧ expM cfg d 0xC2B0C0A5 = 0xC2FE0000 ∧ expM cfg d 0x42B0C0A6 = 0x43000000 := by
  obtain ⟨hhi, hlo, hnext⟩ := pmadd_at_reference_clamps cfg.fma (d 170 2)
  unfold expM
  rw [h, hhi, hlo, hnext]
  exact ⟨rfl, rfl, rfl⟩

/-- Settles O54: 127 and -127 lie within the bounds of R172, and 128 does not. -/
theorem referenceExpTableIsAdmissible : Obligations.ReferenceExpTableIsAdmissible := by
  intro fused d
  constructor
  · obtain ⟨hhi, hlo, -⟩ := expM_at_reference_clamps (cfg := referenceCfg fused true true true) rfl d
    rw [admissibleKE, show (referenceCfg fused true true true).ke.E_HI = 0x42B0C0A5 from rfl,
      show (referenceCfg fused true true true).ke.E_LO = 0xC2B0C0A5 from rfl, hhi, hlo]
    decide
  · obtain ⟨-, -, hnext⟩ := expM_at_reference_clamps
      (cfg := { referenceCfg fused true true true with ke := { referenceKE with E_HI := 0x42B0C0A6 } }) rfl d
    rw [admissibleKE, hnext, show (cmpGE 0x42FE0000 0x43000000 == TRUE32) = false by decide, Bool.false_and]

end Sys2Proof.Machine
end

section
/-! The sign of an operand (R13): inverting it inverts the sign of an exact product, and so that of the rounded one.
`sin_odd` (41_poly_range.md R166) is odd for it. -/

namespace Sys2Proof.Machine

theorem mulD_negD_right (x y : Datum) : mulD x (negD y) = negD (mulD x y) := by
  cases x with
  | nan => rfl
  | inf s =>
    cases y with
    | nan => rfl
    | inf t => exact congrArg Datum.inf (Bool.xor_not s t)
    | fin t m g =>
      simp only [negD, mulD, Bool.xor_not]
      split <;> rfl
  | fin s n e =>
    cases y with
    | nan => rfl
    | inf t =>
      simp only [negD, mulD, Bool.xor_not]
      split <;> rfl
    | fin t m g => exact congrArg (Datum.fin · (n * m) (e + g)) (Bool.xor_not s t)

theorem negD_negD (x : Datum) : negD (negD x) = x := by
  cases x with
  | nan => rfl
  | inf s => exact congrArg Datum.inf (Bool.not_not s)
  | fin s n e => exact congrArg (Datum.fin · n e) (Bool.not_not s)

/-- The square of a number is that of its negation. -/
theorem mulD_negD_negD (x : Datum) : mulD (negD x) (negD x) = mulD x x := by
  rw [mulD_negD_right, mulD_comm, mulD_negD_right, negD_negD]

/-- Only a NaN has no square (R104). -/
theorem mulD_self_ne_nan {x : Datum} (h : x ≠ .nan) : mulD x x ≠ .nan := by
  cases x with
  | nan => exact absurd rfl h
  | inf s => exact Datum.noConfusion
  | fin s n e => exact Datum.noConfusion

/-- A result that is no NaN does not depend on the NaN draw (R109). -/
theorem finish32_eq_of_ne_nan {r : Datum} (h : r ≠ .nan) (x y : NaN32) : finish32 x r = finish32 y r := by
  cases r with
  | nan => exact absurd rfl h
  | inf s => rfl
  | fin s n e => rfl

theorem pack32_not (s : Bool) {m : Nat} (h : m < 2 ^ 31) : pack32 (!s) m = pack32 s m ^^^ C_SIGN := by
  have hmsb : (pack32 s m ^^^ C_SIGN).msb = !s := by
    rw [BitVec.msb_xor, pack32_msb s h, show C_SIGN.msb = true from rfl, Bool.xor_true]
  have hmag : mag32 (pack32 s m ^^^ C_SIGN) = m := by
    rw [mag32, BitVec.toNat_xor, Nat.xor_mod_two_pow, show C_SIGN.toNat % 2 ^ 31 = 0 from rfl, Nat.xor_zero]
    exact pack32_mag s h
  have hpack : pack32 (pack32 s m ^^^ C_SIGN).msb (mag32 (pack32 s m ^^^ C_SIGN)) = pack32 s m ^^^ C_SIGN :=
    packOf_msb_magOf (k := 31) _
  rwa [hmsb, hmag] at hpack

/-- The rounding is symmetric: inverting the sign of an exact result inverts that of the rounded one. -/
theorem finish32_negD {r : Datum} (h : r ≠ .nan) (x y : NaN32) : finish32 x (negD r) = finish32 y r ^^^ C_SIGN := by
  cases r with
  | nan => exact absurd rfl h
  | inf s => exact pack32_not s b32_fits.infMag_lt
  | fin s n e => exact pack32_not s (roundMag_lt b32_fits n e)

theorem isNaN32_fmul_eq_false_iff (d : Draw32) (a b : W32) :
    isNaN32 (fmul d a b) = false ↔ mulD (datum32 a) (datum32 b) ≠ .nan := by
  rw [fmul, isNaN32_finish32, beq_eq_false_iff_ne]

theorem fmul_xor_sign_right {d : Draw32} {a b : W32} (h : isNaN32 (fmul d a b) = false) :
    fmul d a (b ^^^ C_SIGN) = fmul d a b ^^^ C_SIGN := by
  rw [fmul, datum32_xor_sign, mulD_negD_right]
  exact finish32_negD ((isNaN32_fmul_eq_false_iff d a b).1 h) _ _

theorem fmul_self_xor_sign (d : Draw32) {a : W32} (h : isNaN32 a = false) :
    fmul d (a ^^^ C_SIGN) (a ^^^ C_SIGN) = fmul d a a := by
  rw [fmul, fmul, datum32_xor_sign, mulD_negD_negD]
  exact finish32_eq_of_ne_nan (mulD_self_ne_nan ((isNaN32_eq_false_iff a).1 h)) _ _

theorem isNaN32_right_of_fmul {d : Draw32} {a b : W32} (h : isNaN32 (fmul d a b) = false) : isNaN32 b = false := by
  refine (isNaN32_eq_false_iff b).2 fun hb => (isNaN32_fmul_eq_false_iff d a b).1 h ?_
  rw [hb, mulD_nan_right]

/-- The factor of R166 that stands before the operand itself, as a function of the operand's square. -/
def sinOddFactor (cfg : Cfg) (d : Draws32) (z2 : W32) : W32 :=
  let l := pmadd cfg.fma (d 166 2) cfg.ks.S_L7 z2 cfg.ks.S_L5
  let l := pmadd cfg.fma (d 166 3) l z2 cfg.ks.S_L3
  pmadd cfg.fma (d 166 4) l z2 cfg.ks.S_L1

theorem sinOdd_eq_fmul (cfg : Cfg) (d : Draws32) (z : W32) :
    sinOdd cfg d z = fmul (d 166 5) (sinOddFactor cfg d (fmul (d 166 1) z z)) z := rfl

/-- Settles O46: the factor reads the operand only through its square, which the sign does not change. -/
theorem sinOddIsOdd : Obligations.SinOddIsOdd := by
  intro cfg d z h
  rw [sinOdd_eq_fmul] at h
  rw [sinOdd_eq_fmul, sinOdd_eq_fmul, fmul_self_xor_sign _ (isNaN32_right_of_fmul h)]
  exact fmul_xor_sign_right h

end Sys2Proof.Machine
end

section
/-! Rounded results between numbers of the format (R101): a rounded number stays between every two numbers of binary32
that the exact one lies between, and so an exact result that is a number of binary32 comes out exactly. -/

namespace Sys2Proof.Machine

/-- A number of binary32 is below the overflow threshold. -/
theorem abs_value32_lt {w : W32} (h : isFin32 w = true) : |((value32 w : ℚ) : ℝ)| < 2 ^ 128 - 2 ^ 103 := by
  have hlt : magOf (k := 31) w < b32.infMag := (b32_fits.isFin_iff (k := 31) w).1 h
  have hnear : Nearest b32 (b32.grid (magOf (k := 31) w)) (b32.roundUnbounded _ _) :=
    Fmt.Represents.nearest b32_fits.fbits_pos (.inl rfl)
  have hgrid := (hnear.lt_infMag_iff b32_fits).1 (by rwa [hnear.eq_of_grid])
  rw [b32_overflow] at hgrid
  rwa [show ((value32 w : ℚ) : ℝ) = _ from valueOf_eq_signedReal (k := 31) b32 hlt, abs_signedReal _ (grid_nonneg _ _)]

/-- A rounded number lies between the numbers of the format that the exact one lies between. -/
theorem IsRound32.between {v : ℚ} {w lo hi : W32} (h : IsRound32 (v : ℝ) w) (hlo : isFin32 lo = true)
    (hhi : isFin32 hi = true) (hle : value32 lo ≤ v) (hge : v ≤ value32 hi) :
    isFin32 w = true ∧ value32 lo ≤ value32 w ∧ value32 w ≤ value32 hi := by
  have hleR : ((value32 lo : ℚ) : ℝ) ≤ v := Rat.cast_le.2 hle
  have hgeR : (v : ℝ) ≤ (value32 hi : ℚ) := Rat.cast_le.2 hge
  have hv : |(v : ℝ)| < 2 ^ 128 - 2 ^ 103 :=
    abs_lt.2 ⟨(abs_lt.1 (abs_value32_lt hlo)).1.trans_le hleR, hgeR.trans_lt (abs_lt.1 (abs_value32_lt hhi)).2⟩
  obtain ⟨hfin, hnear⟩ := h.1 hv
  obtain ⟨hnlo, -⟩ := hnear lo hlo
  obtain ⟨hnhi, -⟩ := hnear hi hhi
  rw [abs_of_nonpos (sub_nonpos.2 hleR)] at hnlo
  rw [abs_of_nonneg (sub_nonneg.2 hgeR)] at hnhi
  have hwlo : ((value32 lo : ℚ) : ℝ) ≤ (value32 w : ℚ) := by linarith [(abs_le.1 hnlo).1]
  have hwhi : ((value32 w : ℚ) : ℝ) ≤ (value32 hi : ℚ) := by linarith [(abs_le.1 hnhi).2]
  exact ⟨hfin, Rat.cast_le.1 hwlo, Rat.cast_le.1 hwhi⟩

/-- The exact sum of two numbers is a number (R102). -/
theorem exists_addD_fin_fin (s t : Bool) (n m : Nat) (e g : Int) :
    ∃ u l c, addD (.fin s n e) (.fin t m g) = .fin u l c ∧
      numberOf (.fin u l c) = numberOf (.fin s n e) + numberOf (.fin t m g) := by
  by_cases h : numberOf (.fin s n e) + numberOf (.fin t m g) = 0
  · exact ⟨_, _, _, addD_of_sum_eq_zero h, by rw [h, numberOf_eq_zero_iff]⟩
  · exact addD_of_sum_ne_zero h

theorem isRound32_finish32_addD (x : NaN32) (s t : Bool) (n m : Nat) (e g : Int) :
    IsRound32 ((numberOf (.fin s n e) + numberOf (.fin t m g) : ℚ) : ℝ)
      (finish32 x (addD (.fin s n e) (.fin t m g))) := by
  obtain ⟨u, l, c, hadd, hval⟩ := exists_addD_fin_fin s t n m e g
  rw [hadd, ← hval]
  exact isRound32_finish32 x u l c

section
variable (d : Draw32) {a b c : W32} (ha : isFin32 a = true) (hb : isFin32 b = true) (hc : isFin32 c = true)
include ha hb

/-- R102 on numbers, a zero sum included. -/
theorem isRound32_fadd : IsRound32 ((value32 a + value32 b : ℚ) : ℝ) (fadd d a b) := by
  obtain ⟨n, e, hda⟩ := datum32_of_isFin32 ha
  obtain ⟨m, g, hdb⟩ := datum32_of_isFin32 hb
  rw [fadd, value32, value32, hda, hdb]
  exact isRound32_finish32_addD _ _ _ _ _ _ _

/-- R103 on numbers. -/
theorem isRound32_fsub : IsRound32 ((value32 a - value32 b : ℚ) : ℝ) (fsub d a b) := by
  obtain ⟨n, e, hda⟩ := datum32_of_isFin32 ha
  obtain ⟨m, g, hdb⟩ := datum32_of_isFin32 hb
  have hneg : -numberOf (.fin b.msb m g) = numberOf (.fin (!b.msb) m g) := by
    cases b.msb
    · exact (numberOf_true m g).symm
    · rw [numberOf_true, neg_neg]; rfl
  rw [fsub, value32, value32, hda, hdb, sub_eq_add_neg, hneg]
  exact isRound32_finish32_addD _ _ _ _ _ _ _

/-- R104 on numbers. -/
theorem isRound32_fmul : IsRound32 ((value32 a * value32 b : ℚ) : ℝ) (fmul d a b) := by
  obtain ⟨-, -, -, hfin⟩ := fmulFollowsItsRule d a b
  exact (hfin ha hb).1

include hc

/-- R106 on numbers, a zero sum included. -/
theorem isRound32_fma : IsRound32 ((value32 a * value32 b + value32 c : ℚ) : ℝ) (fma d a b c) := by
  obtain ⟨n, e, hda⟩ := datum32_of_isFin32 ha
  obtain ⟨m, g, hdb⟩ := datum32_of_isFin32 hb
  obtain ⟨l, i, hdc⟩ := datum32_of_isFin32 hc
  rw [fma, value32, value32, value32, hda, hdb, hdc, mulD_fin_fin, ← numberOf_mulD]
  exact isRound32_finish32_addD _ _ _ _ _ _ _

end

/-- A number of at most 24 bits, at no fraction bit below those of binary32, is a number of binary32. -/
theorem exists_value32_eq {k : ℤ} (hk : k.natAbs < 2 ^ 24) {e : Int} (he : -149 ≤ e) (he0 : e ≤ 0) :
    ∃ u : W32, isFin32 u = true ∧ value32 u = k * 2 ^ e := by
  have hlt : (k.natAbs * 2 ^ e : ℝ) < b32.overflow := by
    have hkR : (k.natAbs : ℝ) < 2 ^ 24 := by exact_mod_cast hk
    have heR : (2 : ℝ) ^ e ≤ 2 ^ (0 : ℤ) := zpow_le_zpow_right₀ (by norm_num) he0
    have hmul := mul_lt_mul hkR heR (by positivity) (by norm_num)
    rw [b32_overflow]
    norm_num at hmul ⊢
    linarith
  obtain ⟨hfin, hval⟩ := b32_fits.finishOf_exact (k := 31) (bitsOfNaN32 default) (decide (k < 0)) hk
    (show b32.emin ≤ e from he) hlt
  exact ⟨_, hfin, hval.trans (numberOf_natAbs k e)⟩

section
variable {v : ℚ} {w : W32} (h : IsRound32 (v : ℝ) w) {e : Int} (he : -149 ≤ e) (he0 : e ≤ 0)
include h he he0

/-- Bounds of at most 24 bits stand the rounding. -/
theorem IsRound32.between_scaled {lo hi : ℤ} (hlo : lo.natAbs < 2 ^ 24) (hhi : hi.natAbs < 2 ^ 24)
    (hle : lo * 2 ^ e ≤ v) (hge : v ≤ hi * 2 ^ e) :
    isFin32 w = true ∧ lo * 2 ^ e ≤ value32 w ∧ value32 w ≤ hi * 2 ^ e := by
  obtain ⟨ulo, hulo, hvlo⟩ := exists_value32_eq hlo he he0
  obtain ⟨uhi, huhi, hvhi⟩ := exists_value32_eq hhi he he0
  rw [← hvlo] at hle ⊢
  rw [← hvhi] at hge ⊢
  exact h.between hulo huhi hle hge

/-- A number of at most 24 bits comes out exactly. -/
theorem IsRound32.eq_scaled {k : ℤ} (hk : k.natAbs < 2 ^ 24) (hv : v = k * 2 ^ e) :
    isFin32 w = true ∧ value32 w = k * 2 ^ e := by
  obtain ⟨hfin, hlo, hhi⟩ := h.between_scaled he he0 hk hk hv.ge hv.le
  exact ⟨hfin, hhi.antisymm hlo⟩

end

end Sys2Proof.Machine
end

section
/-! Numbers on the extended line (R111, R112, R114), and the constants that the range reducers read (41_poly_range.md
R164). -/

namespace Sys2Proof.Machine

theorem place32_of_isFin32 {w : W32} (h : isFin32 w = true) : place32 w = (((value32 w : ℚ) : ℝ) : EReal) := by
  obtain ⟨n, e, hd⟩ := datum32_of_isFin32 h
  rw [place32_eq, value32, hd, placeOf_fin]

theorem isNaN32_of_isFin32 {w : W32} (h : isFin32 w = true) : isNaN32 w = false := by
  obtain ⟨n, e, hd⟩ := datum32_of_isFin32 h
  rw [isNaN32_eq_false_iff, hd]
  exact Datum.noConfusion

/-- A pattern placed between two numbers is a number between them. -/
theorem isFin32_of_place_between {w lo hi : W32} (hlo : isFin32 lo = true) (hhi : isFin32 hi = true)
    (hw : isNaN32 w = false) (hle : place32 lo ≤ place32 w) (hge : place32 w ≤ place32 hi) :
    isFin32 w = true ∧ value32 lo ≤ value32 w ∧ value32 w ≤ value32 hi := by
  rw [place32_of_isFin32 hlo] at hle
  rw [place32_of_isFin32 hhi] at hge
  have hfin : isFin32 w = true := by
    rw [place32_eq] at hle hge
    unfold isFin32
    cases hd : datum32 w with
    | nan => exact absurd hd ((isNaN32_eq_false_iff w).1 hw)
    | inf s =>
      rw [hd] at hle hge
      cases s
      · exact absurd hge (EReal.coe_lt_top _).not_ge
      · exact absurd hle (EReal.bot_lt_coe _).not_ge
    | fin s n e => rfl
  rw [place32_of_isFin32 hfin, EReal.coe_le_coe_iff, Rat.cast_le] at hle hge
  exact ⟨hfin, hle, hge⟩

/-- R112 with a second operand that is no NaN. -/
theorem fmin_le_right (a : W32) {b : W32} (hb : isNaN32 b = false) :
    isNaN32 (fmin a b) = false ∧ place32 (fmin a b) ≤ place32 b := by
  unfold fmin
  split
  next h =>
    obtain ⟨ha, -, hlt⟩ := (cmpLT_iff a b).1 h
    exact ⟨ha, hlt.le⟩
  next => exact ⟨hb, le_refl _⟩

/-- R111: the result is the second operand, or the first one where that is greater. -/
theorem fmax_cases (a b : W32) : fmax a b = b ∨ (fmax a b = a ∧ isNaN32 a = false ∧ place32 b < place32 a) := by
  unfold fmax
  split
  next h =>
    obtain ⟨ha, -, hlt⟩ := (cmpGT_iff a b).1 h
    exact .inr ⟨rfl, ha, hlt⟩
  next => exact .inl rfl

theorem toNat_eq_magOf {w : W32} (h : w.msb = false) : w.toNat = magOf (k := 31) w := by
  rw [BitVec.msb_eq_decide, decide_eq_false_iff_not, not_le] at h
  exact (Nat.mod_eq_of_lt h).symm

/-- A pattern placed above a positive number has sign bit 0 and the greater bits, up to those of `+∞`. -/
theorem toNat_lt_of_place_lt {m : Nat} (hm : m < b32.infMag) {w : W32} (hw : isNaN32 w = false)
    (h : place32 (packOf 31 false m) < place32 w) : m < w.toNat ∧ w.toNat ≤ b32.infMag := by
  obtain ⟨hfin, hgrid⟩ := value32_packOf hm
  rw [place32_of_isFin32 hfin, hgrid] at h
  rcases b32_fits.datumOf_cases (k := 31) w with ⟨hmag, hd⟩ | ⟨hmag, hd⟩ | ⟨-, hd⟩
  · have hval : ((value32 w : ℚ) : ℝ) = signedReal w.msb (b32.grid (magOf (k := 31) w)) :=
      valueOf_eq_signedReal (k := 31) b32 hmag
    rw [place32_of_isFin32 ((b32_fits.isFin_iff (k := 31) w).2 hmag), EReal.coe_lt_coe_iff, hval] at h
    cases hs : w.msb with
    | true =>
      rw [hs] at h
      have hneg : signedReal true (b32.grid (magOf (k := 31) w)) ≤ 0 := neg_nonpos.2 (grid_nonneg b32 _)
      exact absurd (grid_nonneg b32 m) (h.trans_le hneg).not_ge
    | false =>
      rw [hs] at h
      rw [toNat_eq_magOf hs]
      exact ⟨(grid_strictMono b32).lt_iff_lt.1 h, hmag.le⟩
  · cases hs : w.msb with
    | true =>
      rw [place32_eq, show datum32 w = .inf true from hs ▸ hd] at h
      exact absurd h not_lt_bot
    | false =>
      rw [toNat_eq_magOf hs, hmag]
      exact ⟨hm, le_refl _⟩
  · exact absurd hd ((isNaN32_eq_false_iff w).1 hw)

/-- A number of a binary32 pattern by computation. -/
theorem value32_eq_of_datum32 {w : W32} {s : Bool} {n : Nat} {e : Int} (h : datum32 w = .fin s n e) :
    isFin32 w = true ∧ value32 w = signedInt s n * 2 ^ e := by
  rw [isFin32, value32, h]
  exact ⟨rfl, rfl⟩

theorem C_ZERO_value : isFin32 C_ZERO = true ∧ value32 C_ZERO = 0 := by
  obtain ⟨hfin, hval⟩ := value32_eq_of_datum32 (show datum32 C_ZERO = .fin false 0 (-149) by decide)
  exact ⟨hfin, hval.trans (by norm_num [signedInt])⟩

theorem C_HALF_value : isFin32 C_HALF = true ∧ value32 C_HALF = 1 / 2 := by
  obtain ⟨hfin, hval⟩ := value32_eq_of_datum32 (show datum32 C_HALF = .fin false 8388608 (-24) by decide)
  exact ⟨hfin, hval.trans (by norm_num [signedInt])⟩

theorem C_ONE_value : isFin32 C_ONE = true ∧ value32 C_ONE = 1 := by
  obtain ⟨hfin, hval⟩ := value32_eq_of_datum32 (show datum32 C_ONE = .fin false 8388608 (-23) by decide)
  exact ⟨hfin, hval.trans (by norm_num [signedInt])⟩

theorem C_126_value : isFin32 C_126 = true ∧ value32 C_126 = 126 := by
  obtain ⟨hfin, hval⟩ := value32_eq_of_datum32 (show datum32 C_126 = .fin false 16515072 (-17) by decide)
  exact ⟨hfin, hval.trans (by norm_num [signedInt])⟩

end Sys2Proof.Machine
end

section
/-! The reduction of the exponential (41_poly_range.md R170): the clamp, and the range of `m` under the reference
table. -/

namespace Sys2Proof.Machine

/-- R170: with numbers as bounds, the clamped operand is a number between them, whatever the operand. -/
theorem expClamp_between (cfg : Cfg) (a : W32) (hlo : isFin32 cfg.ke.E_LO = true) (hhi : isFin32 cfg.ke.E_HI = true)
    (hle : value32 cfg.ke.E_LO ≤ value32 cfg.ke.E_HI) :
    isFin32 (expClamp cfg a) = true ∧ value32 cfg.ke.E_LO ≤ value32 (expClamp cfg a) ∧
      value32 (expClamp cfg a) ≤ value32 cfg.ke.E_HI := by
  obtain ⟨hnan, hmin⟩ := fmin_le_right a (isNaN32_of_isFin32 hhi)
  rcases fmax_cases (fmin a cfg.ke.E_HI) cfg.ke.E_LO with h | ⟨h, -, hlt⟩ <;> rw [expClamp, h]
  · exact ⟨hlo, le_refl _, hle⟩
  · exact isFin32_of_place_between hlo hhi hnan hlt.le hmin

/-- The numbers of the reference table `KE` that R170 reads to find `m`. -/
theorem referenceKE_values :
    (isFin32 referenceKE.E_HI = true ∧ value32 referenceKE.E_HI = 11583653 / 2 ^ 17) ∧
      (isFin32 referenceKE.E_LO = true ∧ value32 referenceKE.E_LO = -11583653 / 2 ^ 17) ∧
      (isFin32 referenceKE.E_LOG2EF = true ∧ value32 referenceKE.E_LOG2EF = 12102203 / 2 ^ 23) := by
  have hhi := value32_eq_of_datum32 (show datum32 referenceKE.E_HI = .fin false 11583653 (-17) by decide)
  have hlo := value32_eq_of_datum32 (show datum32 referenceKE.E_LO = .fin true 11583653 (-17) by decide)
  have hlog := value32_eq_of_datum32 (show datum32 referenceKE.E_LOG2EF = .fin false 12102203 (-23) by decide)
  refine ⟨⟨hhi.1, hhi.2.trans ?_⟩, ⟨hlo.1, hlo.2.trans ?_⟩, ⟨hlog.1, hlog.2.trans ?_⟩⟩ <;> norm_num [signedInt]

/-- Rounding a sum that is at least -127 and below 128 by one unit of its last place or more. -/
theorem IsRound32.below_128 {v : ℚ} {y : W32} (h : IsRound32 (v : ℝ) y) (hle : -127 ≤ v)
    (hge : v ≤ 128 - 1 / 2 ^ 17) : isFin32 y = true ∧ -127 ≤ value32 y ∧ value32 y < 128 := by
  obtain ⟨hfin, hlo, hhi⟩ := h.between_scaled (lo := -127 * 2 ^ 17) (hi := 2 ^ 24 - 1) (e := -17) (by decide)
    (by decide) (by decide) (by decide) (by norm_num; exact hle) (by norm_num at hge ⊢; exact hge)
  norm_num at hlo hhi
  exact ⟨hfin, hlo, by linarith⟩

/-- R170, line 2, before the floor: under both settings of `CFG_FMA` the roundings leave the sum at -127 or above, and
below 128. Unfused, the rounded product already lies below 127.5 by a unit of its last place. -/
theorem pmadd_reference_between (fused : Bool) (d : Draw32) {x : W32} (hx : isFin32 x = true)
    (hlo : -11583653 / 2 ^ 17 ≤ value32 x) (hhi : value32 x ≤ 11583653 / 2 ^ 17) :
    isFin32 (pmadd fused d x referenceKE.E_LOG2EF C_HALF) = true ∧
      -127 ≤ value32 (pmadd fused d x referenceKE.E_LOG2EF C_HALF) ∧
      value32 (pmadd fused d x referenceKE.E_LOG2EF C_HALF) < 128 := by
  obtain ⟨-, -, hLfin, hL⟩ := referenceKE_values
  obtain ⟨hHfin, hH⟩ := C_HALF_value
  have hplo : -255 / 2 ≤ value32 x * value32 referenceKE.E_LOG2EF := by rw [hL]; norm_num; linarith
  have hphi : value32 x * value32 referenceKE.E_LOG2EF ≤ 255 / 2 - 1 / 2 ^ 17 := by
    rw [hL]
    norm_num at hhi ⊢
    linarith
  cases fused
  case false =>
    obtain ⟨hpfin, hp1, hp2⟩ := (isRound32_fmul d hx hLfin).between_scaled (lo := -255 * 2 ^ 16)
      (hi := 255 * 2 ^ 16 - 1) (e := -17) (by decide) (by decide) (by decide) (by decide) (by norm_num; linarith)
      (by norm_num at hphi ⊢; exact hphi)
    norm_num at hp1 hp2
    exact (isRound32_fadd d hpfin hHfin).below_128 (by rw [hH]; linarith) (by rw [hH]; norm_num; linarith)
  case true =>
    exact (isRound32_fma d hx hLfin hHfin).below_128 (by rw [hH]; linarith) (by rw [hH]; linarith)

/-- Settles O53: the clamp keeps the operand between the reference bounds, so the sum that is rounded down lies from -127
to below 128. -/
theorem expReductionStaysInRange : Obligations.ExpReductionStaysInRange := by
  intro cfg d a hke
  obtain ⟨⟨hhifin, hhi⟩, ⟨hlofin, hlo⟩, -⟩ := referenceKE_values
  obtain ⟨hx, hxlo, hxhi⟩ := expClamp_between cfg a (hke ▸ hlofin) (hke ▸ hhifin)
    (by rw [hke, hlo, hhi]; norm_num)
  rw [hke, hlo] at hxlo
  rw [hke, hhi] at hxhi
  obtain ⟨hy, hylo, hyhi⟩ := pmadd_reference_between cfg.fma (d 170 2) hx hxlo hxhi
  have hm : (rrExp cfg d a).1 =
      ffloor (d 170 2) (pmadd cfg.fma (d 170 2) (expClamp cfg a) referenceKE.E_LOG2EF C_HALF) := by
    rw [← hke]
    rfl
  obtain ⟨hfin, hval⟩ := ffloor_of_isFin32 (d 170 2) hy
  rw [hm]
  refine ⟨hfin, _, Int.le_floor.2 (by exact_mod_cast hylo), ?_, hval⟩
  exact Int.lt_add_one_iff.1 (Int.floor_lt.2 (by exact_mod_cast hyhi))

end Sys2Proof.Machine
end

section
/-! The reduction of the logarithm (41_poly_range.md R171): the clamp, and the two sums behind it, which are exact. -/

namespace Sys2Proof.Machine

/-- R171: the clamped operand is a positive number of at least `FLT_MIN`, or `+∞`. -/
theorem logClamp_between (a : W32) :
    isNaN32 (logClamp a) = false ∧ 0x00800000 ≤ (logClamp a).toNat ∧ (logClamp a).toNat ≤ 0x7F800000 := by
  rcases fmax_cases a C_FLT_MIN with h | ⟨h, hnan, hlt⟩ <;> rw [logClamp, h]
  · decide
  · obtain ⟨hlo, hhi⟩ := toNat_lt_of_place_lt (m := 0x00800000) (by rw [b32_infMag]; decide) hnan hlt
    exact ⟨hnan, hlo.le, hhi.trans_eq b32_infMag⟩

/-- A number from 1/2 to 1 is a significand of 24 bits, in units of `2^-24`. -/
theorem exists_significand {w : W32} (hw : isFin32 w = true) (hlo : 1 / 2 ≤ value32 w) (hhi : value32 w < 1) :
    ∃ n : ℤ, 2 ^ 23 ≤ n ∧ n < 2 ^ 24 ∧ value32 w = n * 2 ^ (-24 : ℤ) := by
  obtain ⟨n, e, hd⟩ := datum32_of_isFin32 hw
  have habs : (n : ℚ) * 2 ^ e = value32 w := by
    rw [← abs_of_nonneg (by linarith : 0 ≤ value32 w), value32, hd, abs_numberOf]
  have he : -24 ≤ e := by
    by_contra hlt
    have hn : (n : ℚ) < 2 ^ 24 := by exact_mod_cast lt_of_datum32_fin hd
    have he2 : (2 : ℚ) ^ e ≤ 2 ^ (-25 : ℤ) := zpow_le_zpow_right₀ (by norm_num) (by omega)
    have hmul := mul_lt_mul hn he2 (by positivity) (by norm_num)
    norm_num at hmul
    linarith
  obtain ⟨k, hk⟩ : ∃ k : ℤ, value32 w = k * 2 ^ (-24 : ℤ) :=
    ⟨signedInt w.msb (n * 2 ^ (e - -24).toNat), by rw [value32, hd, numberOf_eq_shifted _ _ he]⟩
  rw [hk] at hlo hhi
  norm_num at hlo hhi
  have hklo : (2 ^ 23 : ℚ) ≤ k := by linarith
  have hkhi : (k : ℚ) < 2 ^ 24 := by linarith
  exact ⟨k, by exact_mod_cast hklo, by exact_mod_cast hkhi, hk⟩

/-- A masked number: itself under the true mask, and `+0` under the false one. -/
theorem vand_maskOf (w : W32) (t : Bool) : vand w (maskOf t) = if t then w else C_ZERO := by
  cases t
  · exact BitVec.and_zero
  · exact BitVec.and_allOnes

theorem vand_maskOf_value {w : W32} (hw : isFin32 w = true) (t : Bool) :
    isFin32 (vand w (maskOf t)) = true ∧ value32 (vand w (maskOf t)) = if t then value32 w else 0 := by
  rw [vand_maskOf]
  split
  · exact ⟨hw, rfl⟩
  · exact C_ZERO_value

/-- R171, lines 4 and 9: the exponent is the biased one less 126, and one less again under the true mask. -/
theorem logExponent_exact (d d' : Draw32) {x : W32} (hx : isFin32 x = true) {b : Nat} (hb : b < 256)
    (hval : value32 x = b) (t : Bool) :
    isFin32 (fsub d' (fsub d x C_126) (vand C_ONE (maskOf t))) = true ∧
      value32 (fsub d' (fsub d x C_126) (vand C_ONE (maskOf t))) = ((b - (if t then 127 else 126) : ℤ) : ℚ) := by
  obtain ⟨h1, hone⟩ := C_ONE_value
  obtain ⟨h126, hc126⟩ := C_126_value
  obtain ⟨hm, hmask⟩ := vand_maskOf_value h1 t
  obtain ⟨he, heval⟩ := (isRound32_fsub d hx h126).eq_scaled (k := b - 126) (e := 0) (by decide) (le_refl _)
    (by omega) (by rw [hval, hc126]; push_cast; ring)
  obtain ⟨hr, hrval⟩ := (isRound32_fsub d' he hm).eq_scaled (k := b - (if t then 127 else 126)) (e := 0) (by decide)
    (le_refl _) (by split <;> omega) (by rw [heval, hmask, hone]; split <;> push_cast <;> ring)
  exact ⟨hr, hrval.trans (by rw [zpow_zero, mul_one])⟩

/-- R171, lines 8 and 10: the argument less 1 is exact, and so is twice the argument less 1. -/
theorem logArgument_exact (d d' : Draw32) {x : W32} (hx : isFin32 x = true) (hlo : 1 / 2 ≤ value32 x)
    (hhi : value32 x < 1) (t : Bool) :
    isFin32 (fadd d' (fsub d x C_ONE) (vand x (maskOf t))) = true ∧
      value32 (fadd d' (fsub d x C_ONE) (vand x (maskOf t))) = (if t then 2 * value32 x else value32 x) - 1 := by
  obtain ⟨n, hn1, hn2, hval⟩ := exists_significand hx hlo hhi
  obtain ⟨h1, hone⟩ := C_ONE_value
  obtain ⟨hm, hmask⟩ := vand_maskOf_value hx t
  have hunit : (1 : ℚ) = 2 ^ 24 * 2 ^ (-24 : ℤ) := by norm_num
  obtain ⟨hs, hsval⟩ := (isRound32_fsub d hx h1).eq_scaled (k := n - 2 ^ 24) (e := -24) (by decide) (by decide)
    (by omega) (by rw [hval, hone, hunit]; push_cast; ring)
  obtain ⟨hr, hrval⟩ := (isRound32_fadd d' hs hm).eq_scaled (k := (if t then 2 * n else n) - 2 ^ 24) (e := -24)
    (by decide) (by decide) (by split <;> omega) (by rw [hsval, hmask, hval]; split <;> push_cast <;> ring)
  refine ⟨hr, hrval.trans ?_⟩
  rw [hval]
  split <;> norm_num <;> ring

/-- The biased exponent of a positive number or `+∞` (R128). -/
theorem cvtI2F_shr_expo {w : W32} (h : w.toNat ≤ 0x7F800000) :
    isFin32 (cvtI2F (shr w 23)) = true ∧ value32 (cvtI2F (shr w 23)) = ((w.toNat / 2 ^ 23 : Nat) : ℚ) := by
  have hshift : (shr w 23).toNat = w.toNat / 2 ^ 23 := by
    rw [shr, BitVec.toNat_ushiftRight, Nat.shiftRight_eq_div_pow]
  rw [← hshift]
  exact cvtI2F_of_lt (by omega)

/-- R131 on the clamped operand of R171. -/
theorem mantHalf_logClamp (a : W32) :
    isFin32 (mantHalf (logClamp a)) = true ∧ 1 / 2 ≤ value32 (mantHalf (logClamp a)) ∧
      value32 (mantHalf (logClamp a)) < 1 := by
  obtain ⟨-, -, hhi⟩ := logClamp_between a
  obtain ⟨-, -, -, hnorm⟩ := mantissaIsNormalised (logClamp a)
  apply hnorm
  rw [BitVec.msb_eq_decide, decide_eq_false_iff_not]
  omega

/-- Settles O47: the two sums are exact, with the mask of the comparison as the choice in both. -/
theorem logReductionIsExact : Obligations.LogReductionIsExact := by
  intro cfg d a
  dsimp only
  obtain ⟨hnan, hlo, hhi⟩ := logClamp_between a
  obtain ⟨hxm, hxmlo, hxmhi⟩ := mantHalf_logClamp a
  obtain ⟨hexpo, hexpoval⟩ := cvtI2F_shr_expo hhi
  obtain ⟨t, ht⟩ : ∃ t, cmpLT (mantHalf (logClamp a)) cfg.kl.L_SQRTHF = maskOf t := ⟨_, rfl⟩
  obtain ⟨he, heval⟩ := logExponent_exact (d 171 4) (d 171 9) hexpo (by omega) hexpoval t
  obtain ⟨hx, hxval⟩ := logArgument_exact (d 171 8) (d 171 10) hxm hxmlo hxmhi t
  rw [← ht] at he heval hx hxval
  refine ⟨hnan, hlo, hhi, he, hx, ⟨_, ?_, ?_, heval⟩, fun h => ?_, fun h => ?_⟩
  · split <;> omega
  · split <;> omega
  · rw [ht, maskOf_eq_true_iff] at h
    subst h
    exact ⟨heval.trans (by push_cast; rfl), hxval⟩
  · rw [ht] at h
    cases t
    · exact ⟨heval.trans (by push_cast; rfl), hxval⟩
    · exact absurd h (by decide)

end Sys2Proof.Machine
end

section
/-! The roots and reciprocal roots answer the head of `Q` (42_sqrt_rsqrt.md R200, R215, R216). -/

namespace Sys2Proof.Machine

/-- With a head of `Q`, an operation offers a response without the error bit and changes nothing else; the result is the
operation's, unless the configuration changed while the request was in `Q` (R29, R31, R333). -/
theorem exists_exec_eq_response {s : State} {e : Entry} {rest : List Entry} (hq : s.q = e :: rest) (i : Instr) :
    ∃ y, exec i s = .next { s with rspValid := true, rspY := y, rspErr := false } ∧
      (e.spoiled = false → y = resultOf Config.env s.pins.cfg i e.a) :=
  ⟨_, exec_cons hq i, fun hclean => resultFor_clean hclean _⟩

section
variable (est : W32 → W32) {cfg : Cfg} (d : Fin 8 → Draws32) (a : Lanes32) (k : Fin 8)

theorem psqrtLanes_of_approx (h : cfg.sqrt32Approx = true) :
    psqrtLanes est cfg d a k = psqrtApprox est cfg (d k) (a k) := if_pos h

theorem psqrtLanes_of_exact (h : cfg.sqrt32Approx = false) :
    psqrtLanes est cfg d a k = psqrtExact (d k) (a k) := if_neg (Bool.eq_false_iff.1 h)

theorem prsqrtLanes_of_approx (h : cfg.rsqrt32Approx = true) :
    prsqrtLanes est cfg d a k = prsqrtApprox est cfg (d k) (a k) := if_pos h

theorem prsqrtLanes_of_exact (h : cfg.rsqrt32Approx = false) :
    prsqrtLanes est cfg d a k = prsqrtExact (d k) (a k) := if_neg (Bool.eq_false_iff.1 h)

end

/-- The mask of R204: the operands from zero to `FLT_MIN`. -/
def sqrtTiny (a : W32) : W32 := vand (cmpGE a C_ZERO) (cmpGE C_FLT_MIN a)

/-- The product of R204 before the maximum and the mask. -/
def sqrtProduct (est : W32 → W32) (cfg : Cfg) (d : Draws32) (a : W32) : W32 :=
  fmul (d 204 3) a (nrStep cfg.fma d a (rsqrtEst est (d 204 1) a))

theorem psqrtApprox_rawMax (est : W32 → W32) {cfg : Cfg} (h : cfg.psqrtRawMax = true) (d : Draws32) (a : W32) :
    psqrtApprox est cfg d a = vandnot (sqrtTiny a) (fmax (sqrtProduct est cfg d a) a) :=
  congrArg (vandnot (sqrtTiny a)) (if_pos h)

theorem psqrtApprox_noRawMax (est : W32 → W32) {cfg : Cfg} (h : cfg.psqrtRawMax = false) (d : Draws32) (a : W32) :
    psqrtApprox est cfg d a = vandnot (sqrtTiny a) (sqrtProduct est cfg d a) :=
  congrArg (vandnot (sqrtTiny a)) (if_neg (Bool.eq_false_iff.1 h))

/-- Settles O24: an answered lane, in the mode that the configuration selects. -/
theorem psqrtF32AnswersTheHead : Obligations.PsqrtF32AnswersTheHead := by
  intro s e rest hq
  obtain ⟨y, hexec, hy⟩ := exists_exec_eq_response hq .psqrtF32
  refine ⟨y, hexec, fun hclean k => ?_⟩
  rw [hy hclean, resultOf, lanes32_psqrt32Vec]
  refine ⟨fun hmode hmax => ?_, fun hmode hmax => ?_, fun hmode => psqrtLanes_of_exact _ _ _ k hmode⟩
  · rw [psqrtLanes_of_approx _ _ _ k hmode, psqrtApprox_rawMax _ hmax]
    rfl
  · rw [psqrtLanes_of_approx _ _ _ k hmode, psqrtApprox_noRawMax _ hmax]
    rfl

/-- Settles O25: an answered lane, in the mode that the configuration selects. -/
theorem prsqrtF32AnswersTheHead : Obligations.PrsqrtF32AnswersTheHead := by
  intro s e rest hq
  obtain ⟨y, hexec, hy⟩ := exists_exec_eq_response hq .prsqrtF32
  refine ⟨y, hexec, fun hclean k => ?_⟩
  rw [hy hclean, resultOf, lanes32_prsqrt32Vec]
  exact ⟨fun hmode => prsqrtLanes_of_approx _ _ _ k hmode, fun hmode => prsqrtLanes_of_exact _ _ _ k hmode⟩

/-- Settles O26: an answered lane is the operand lane's root. -/
theorem psqrtF64AnswersTheHead : Obligations.PsqrtF64AnswersTheHead := by
  intro s e rest hq
  obtain ⟨y, hexec, hy⟩ := exists_exec_eq_response hq .psqrtF64
  refine ⟨y, hexec, fun hclean k => ?_⟩
  rw [hy hclean, resultOf, lanes64_psqrt64Vec]
  rfl

/-- Settles O27: an answered lane is one divided by the operand lane's root. -/
theorem prsqrtF64AnswersTheHead : Obligations.PrsqrtF64AnswersTheHead := by
  intro s e rest hq
  obtain ⟨y, hexec, hy⟩ := exists_exec_eq_response hq .prsqrtF64
  refine ⟨y, hexec, fun hclean k => ?_⟩
  rw [hy hclean, resultOf, lanes64_prsqrt64Vec]
  rfl

/-- The binary64 results read the binary64 NaN draws and nothing else of the environment (R212). -/
theorem psqrt64Vec_congr {env env' : Env} (h : env.nan64 = env'.nan64) (a : Vec) :
    psqrt64Vec env a = psqrt64Vec env' a := by
  simp only [psqrt64Vec, draws64, h]

theorem prsqrt64Vec_congr {env env' : Env} (h : env.nan64 = env'.nan64) (a : Vec) :
    prsqrt64Vec env a = prsqrt64Vec env' a := by
  simp only [prsqrt64Vec, draws64, h]

/-- Settles O30: the binary64 result vectors take no configuration, and agree with equal draws. -/
theorem binary64IgnoresConfiguration : Obligations.Binary64IgnoresConfiguration := by
  intro env env' cfg cfg' i a hi h
  rcases hi with rfl | rfl
  · exact psqrt64Vec_congr h a
  · exact prsqrt64Vec_congr h a

end Sys2Proof.Machine
end

section
/-! Corner cases of the exact reciprocal root (42_sqrt_rsqrt.md R210, R211, R216): by the rules of root and quotient. -/

namespace Sys2Proof.Machine

/-- One over a root is a NaN where the root is one, in either format: NaNs, and what is below zero (R211). -/
theorem isNaN_quotient_root {f : Fmt} {k : Nat} {one a r q : BitVec (k + 1)} (hr : f.IsRoot a r)
    (hq : f.IsQuotient one r q) (h : (f.datumOf a == .nan) = true ∨ (a.msb = true ∧ a ≠ packOf k true 0)) :
    (f.datumOf q == .nan) = true := by
  refine hq.nan (.inr ?_)
  rcases h with hnan | ⟨hs, hne⟩
  · exact hr.nan hnan
  · exact hr.neg hs hne

theorem isNaN32_prsqrtExact (d : Draws32) {a : W32} (h : isNaN32 a = true ∨ (a.msb = true ∧ a ≠ 0x80000000)) :
    isNaN32 (prsqrtExact d a) = true := by
  have hneg : packOf 31 true 0 = 0x80000000 := by decide
  exact isNaN_quotient_root (isRoot_fsqrt (d 210 1) a) (isQuotient_fdiv (d 210 1) C_ONE _) (hneg ▸ h)

theorem isNaN64_prsqrt64 (d : Draws64) {a : W64} (h : isNaN64 a = true ∨ (a.msb = true ∧ a ≠ 0x8000000000000000)) :
    isNaN64 (prsqrt64 d a) = true := by
  have hneg : packOf 63 true 0 = 0x8000000000000000 := by decide
  exact isNaN_quotient_root (isRoot_fsqrt64 (d 216 1) a) (isQuotient_fdiv64 (d 216 1) C_ONE64 _) (hneg ▸ h)

/-- A reciprocal root from its two roundings (R210). -/
theorem prsqrtExact_eq {d : Draws32} {a r y : W32} (hroot : fsqrt (d 210 1) a = r) (hdiv : fdiv (d 210 1) C_ONE r = y) :
    prsqrtExact d a = y := by
  rw [prsqrtExact, hroot, hdiv]

/-- A reciprocal root from its two roundings (R216). -/
theorem prsqrt64_eq {d : Draws64} {a r y : W64} (hroot : fsqrt64 (d 216 1) a = r)
    (hdiv : fdiv64 (d 216 1) C_ONE64 r = y) : prsqrt64 d a = y := by
  rw [prsqrt64, hroot, hdiv]

/-- R108 on a positive number, from the integer root of the scaled radicand. -/
theorem sqrtD_eq_of_floor {n : Nat} {e : Int} {b r : Nat} (hn : n ≠ 0) (hb : 128 + (e % 2).toNat = b)
    (hlo : r * r ≤ n * 2 ^ b) (hhi : n * 2 ^ b < (r + 1) * (r + 1)) :
    sqrtD (.fin false n e) =
      .fin false (2 * r + (if r * r = n * 2 ^ b then 0 else 1)) ((e - b) / 2 - 1) := by
  subst hb
  have hroot : isqrt (n * 2 ^ (128 + (e % 2).toNat)) = r := by
    rw [isqrt_eq_sqrt]
    exact (Nat.eq_sqrt.2 ⟨hlo, hhi⟩).symm
  simp only [sqrtD, rootD, hn, if_false, Bool.false_eq_true, hroot]

theorem fsqrt_minSubnormal (d : Draw32) : fsqrt d 0x00000001 = 0x1A3504F3 := by
  rw [fsqrt, show datum32 0x00000001 = .fin false 1 (-149) by decide,
    sqrtD_eq_of_floor (b := 129) (r := 26087635650665564424) (by decide) (by decide) (by decide) (by decide)]
  rfl

theorem fsqrt_one (d : Draw32) : fsqrt d C_ONE = C_ONE := by
  rw [fsqrt, show datum32 C_ONE = .fin false (2 ^ 23) (-23) by decide,
    sqrtD_eq_of_floor (b := 129) (r := 2 ^ 76) (by decide) (by decide) (by decide) (by decide)]
  rfl

theorem fsqrt64_minSubnormal (d : Draw64) : fsqrt64 d 0x0000000000000001 = 0x1E60000000000000 := by
  rw [fsqrt64, show datum64 0x0000000000000001 = .fin false 1 (-1074) by decide,
    sqrtD_eq_of_floor (b := 128) (r := 2 ^ 64) (by decide) (by decide) (by decide) (by decide)]
  rfl

theorem fsqrt64_one (d : Draw64) : fsqrt64 d C_ONE64 = C_ONE64 := by
  rw [fsqrt64, show datum64 C_ONE64 = .fin false (2 ^ 52) (-52) by decide,
    sqrtD_eq_of_floor (b := 128) (r := 2 ^ 90) (by decide) (by decide) (by decide) (by decide)]
  rfl

/-- Settles O58: the numbers by their two roundings, the root of the smallest binary32 subnormal being the rounded one;
and the NaN rows by the rules of root and quotient. -/
theorem exactReciprocalRootCorners : Obligations.ExactReciprocalRootCorners := by
  refine ⟨fun d => ⟨?_, ?_, ?_, ?_, ?_, fun a hs hne => isNaN32_prsqrtExact d (.inr ⟨hs, hne⟩),
    fun a h => isNaN32_prsqrtExact d (.inl h)⟩, fun d => ⟨?_, ?_, ?_, ?_, ?_,
    fun a hs hne => isNaN64_prsqrt64 d (.inr ⟨hs, hne⟩), fun a h => isNaN64_prsqrt64 d (.inl h)⟩⟩
  · exact prsqrtExact_eq (r := 0) rfl rfl
  · exact prsqrtExact_eq (r := 0x80000000) rfl rfl
  · exact prsqrtExact_eq (fsqrt_minSubnormal _) rfl
  · exact prsqrtExact_eq (r := 0x7F800000) rfl rfl
  · exact prsqrtExact_eq (fsqrt_one _) rfl
  · exact prsqrt64_eq (r := 0) rfl rfl
  · exact prsqrt64_eq (r := 0x8000000000000000) rfl rfl
  · exact prsqrt64_eq (fsqrt64_minSubnormal _) rfl
  · exact prsqrt64_eq (r := 0x7FF0000000000000) rfl rfl
  · exact prsqrt64_eq (fsqrt64_one _) rfl

end Sys2Proof.Machine
end

section
/-! Positive normals of binary32 (R101), by their bits, by their value and by their significand. -/

namespace Sys2Proof.Machine

/-- A positive normal (R101). -/
structure IsPosNormal (w : W32) : Prop where
  fin : isFin32 w = true
  sign : w.msb = false
  bits : 0x00800000 ≤ w.toNat

theorem two_pow_23_le_sig_iff (m : Nat) : 2 ^ 23 ≤ b32.sig m ↔ 2 ^ 23 ≤ m := by
  have hdm := Nat.div_add_mod m (2 ^ 23)
  have hmod := Nat.mod_lt m (Nat.two_pow_pos 23)
  rw [Fmt.sig, show b32.fbits = 23 from rfl]
  split <;> omega

theorem isPosNormal_iff_datum {w : W32} {s : Bool} {n : Nat} {e : Int} (h : datum32 w = .fin s n e) :
    IsPosNormal w ↔ s = false ∧ 2 ^ 23 ≤ n := by
  obtain ⟨-, rfl, rfl, -⟩ := b32_fits.of_datumOf_fin (k := 31) h
  have hfin : isFin32 w = true := by rw [isFin32, h]; rfl
  rw [two_pow_23_le_sig_iff]
  constructor
  · rintro ⟨-, hs, hbits⟩
    exact ⟨hs, toNat_eq_magOf hs ▸ hbits⟩
  · rintro ⟨hs, hbits⟩
    exact ⟨hfin, hs, (toNat_eq_magOf hs).symm ▸ hbits⟩

theorem value32_of_msb_false {w : W32} (h : isFin32 w = true) (hs : w.msb = false) :
    ((value32 w : ℚ) : ℝ) = b32.grid w.toNat := by
  have hval : ((value32 w : ℚ) : ℝ) = signedReal w.msb (b32.grid (magOf (k := 31) w)) :=
    valueOf_eq_signedReal (k := 31) b32 ((b32_fits.isFin_iff (k := 31) w).1 h)
  rw [hval, hs, toNat_eq_magOf hs]
  rfl

/-- A number above zero has sign bit 0. -/
theorem msb_eq_false_of_value_pos {w : W32} (h : isFin32 w = true) (hpos : 0 < value32 w) : w.msb = false := by
  have hval : ((value32 w : ℚ) : ℝ) = signedReal w.msb (b32.grid (magOf (k := 31) w)) :=
    valueOf_eq_signedReal (k := 31) b32 ((b32_fits.isFin_iff (k := 31) w).1 h)
  have hposR : (0 : ℝ) < (value32 w : ℚ) := Rat.cast_pos.2 hpos
  have hgrid := grid_nonneg b32 (magOf (k := 31) w)
  cases hs : w.msb with
  | false => rfl
  | true =>
    have hneg : ((value32 w : ℚ) : ℝ) = -b32.grid (magOf (k := 31) w) := by rw [hval, hs]; rfl
    linarith

theorem grid_fltMin : b32.grid 0x00800000 = 2 ^ (-126 : ℤ) := by
  have h : b32.sig 0x00800000 = 2 ^ 23 ∧ b32.lowExp 0x00800000 = -149 := by decide
  rw [Fmt.grid, h.1, h.2]
  norm_num

theorem isPosNormal_iff_value {w : W32} (h : isFin32 w = true) :
    IsPosNormal w ↔ (2 : ℝ) ^ (-126 : ℤ) ≤ (value32 w : ℚ) := by
  rw [← grid_fltMin]
  constructor
  · rintro ⟨-, hs, hbits⟩
    rw [value32_of_msb_false h hs]
    exact (grid_strictMono b32).monotone hbits
  · intro hle
    have hpos : (0 : ℝ) < (value32 w : ℚ) := by
      rw [grid_fltMin] at hle
      exact lt_of_lt_of_le (by positivity) hle
    have hs := msb_eq_false_of_value_pos h (Rat.cast_pos.1 hpos)
    rw [value32_of_msb_false h hs] at hle
    exact ⟨h, hs, (grid_strictMono b32).le_iff_le.1 hle⟩

theorem IsPosNormal.value_bounds {w : W32} (h : IsPosNormal w) :
    (2 : ℝ) ^ (-126 : ℤ) ≤ (value32 w : ℚ) ∧ ((value32 w : ℚ) : ℝ) < 2 ^ 128 := by
  refine ⟨(isPosNormal_iff_value h.fin).1 h, ?_⟩
  have habs := (abs_lt.1 (abs_value32_lt h.fin)).2
  have hgap : (0 : ℝ) < 2 ^ 103 := by positivity
  linarith

end Sys2Proof.Machine
end

section
/-! The rounding of a number in the normal range moves it by at most a `2^-23`th part (R13, R101). -/

namespace Sys2Proof.Machine

/-- Cutting a number off after 24 bits gives a number of binary32 as near as that. -/
theorem exists_value32_near {v : ℝ} (hlo : 2 ^ (-126 : ℤ) ≤ v) (hhi : v < 2 ^ (127 : ℤ)) :
    ∃ u : W32, isFin32 u = true ∧ |(value32 u : ℝ) - v| ≤ v / 2 ^ 23 := by
  have hv : 0 < v := lt_of_lt_of_le (by positivity) hlo
  obtain ⟨i, hi, hi'⟩ := exists_mem_Ico_zpow hv one_lt_two
  have hge : (-126 : ℤ) < i + 1 := (zpow_lt_zpow_iff_right₀ one_lt_two).1 (hlo.trans_lt hi')
  obtain ⟨b, hb⟩ : ∃ b : ℤ, i = b + 23 := ⟨i - 23, by ring⟩
  have hu : (0 : ℝ) < 2 ^ b := by positivity
  have hsplit : (2 : ℝ) ^ i = 2 ^ 23 * 2 ^ b := zpow_eq_pow_mul hb
  rw [zpow_add_one₀ (by norm_num), hsplit] at hi'
  rw [hsplit] at hi
  have hfloor : (⌊v / 2 ^ b⌋₊ : ℝ) * 2 ^ b ≤ v := (le_div_iff₀ hu).1 (Nat.floor_le (by positivity))
  have hceil : v < (⌊v / 2 ^ b⌋₊ + 1) * 2 ^ b := (div_lt_iff₀ hu).1 (Nat.lt_floor_add_one _)
  have hbits : ⌊v / 2 ^ b⌋₊ < 2 ^ (b32.fbits + 1) := by
    rw [Nat.floor_lt (by positivity), div_lt_iff₀ hu, show b32.fbits + 1 = 24 from rfl]
    push_cast
    linarith
  have hfinite : (⌊v / 2 ^ b⌋₊ * 2 ^ b : ℝ) < b32.overflow := by
    rw [b32_overflow]
    norm_num at hhi ⊢
    linarith
  obtain ⟨hfin, hval⟩ := b32_fits.finishOf_exact (k := 31) (bitsOfNaN32 default) false hbits
    (show -149 ≤ b by omega) hfinite
  refine ⟨_, hfin, ?_⟩
  have hvalR : ((value32 (b32.finishOf (k := 31) (bitsOfNaN32 default) (.fin false ⌊v / 2 ^ b⌋₊ b)) : ℚ) : ℝ) =
      ⌊v / 2 ^ b⌋₊ * 2 ^ b := (congrArg Rat.cast hval).trans (numberOf_fin false _ b)
  rw [hvalR, abs_of_nonpos (by linarith), le_div_iff₀ (by norm_num)]
  linarith

theorem IsRound32.relative_error {v : ℝ} {w : W32} (h : IsRound32 v w) (hlo : 2 ^ (-126 : ℤ) ≤ v)
    (hhi : v < 2 ^ (127 : ℤ)) : isFin32 w = true ∧ |(value32 w : ℝ) - v| ≤ v / 2 ^ 23 := by
  have hv : 0 < v := lt_of_lt_of_le (by positivity) hlo
  obtain ⟨u, hu, hnear⟩ := exists_value32_near hlo hhi
  obtain ⟨hfin, hbest⟩ := h.1 (by rw [abs_of_pos hv]; norm_num at hhi ⊢; linarith)
  exact ⟨hfin, (hbest u hu).1.trans hnear⟩

end Sys2Proof.Machine
end

section
/-! The estimate (42_sqrt_rsqrt.md R203): the model's test of raw bits is the contract, the reference estimate meets it,
and the rows of the special operands. -/

namespace Sys2Proof.Machine

/-- The contract of R203 for the positive normal operand `a`: `e` is a positive normal with relative error at most
`1.5/2^12`. -/
def EstContract (a e : W32) : Prop :=
  IsPosNormal e ∧ |(value32 e : ℝ) * Real.sqrt ((value32 a : ℚ) : ℝ) - 1| ≤ 1.5 / 2 ^ 12

/-- Two integers in units of powers of two, one of the exponents being zero. -/
theorem mul_two_pow_toNat_le_iff (c p : Nat) (k : Int) :
    (c * 2 ^ (-k).toNat ≤ p * 2 ^ k.toNat ↔ (c : ℝ) ≤ p * 2 ^ k) ∧
      (p * 2 ^ k.toNat ≤ c * 2 ^ (-k).toNat ↔ (p * 2 ^ k : ℝ) ≤ c) := by
  rcases Int.le_total 0 k with hk | hk
  · obtain ⟨j, rfl⟩ := Int.eq_ofNat_of_zero_le hk
    rw [Int.toNat_natCast, Int.toNat_neg_natCast, pow_zero, Nat.mul_one, zpow_natCast]
    constructor <;> exact_mod_cast Iff.rfl
  · obtain ⟨j, rfl⟩ : ∃ j : Nat, k = -j := ⟨(-k).toNat, by omega⟩
    have hj : (0 : ℝ) < 2 ^ j := by positivity
    rw [neg_neg, Int.toNat_natCast, Int.toNat_neg_natCast, pow_zero, Nat.mul_one, zpow_neg, zpow_natCast,
      ← div_eq_mul_inv, le_div_iff₀ hj, div_le_iff₀ hj]
    constructor <;> exact_mod_cast Iff.rfl

/-- `1.5/2^12` is three units of `2^-13`. -/
theorem abs_sub_one_le_iff {x : ℝ} (hx : 0 ≤ x) :
    |x - 1| ≤ 1.5 / 2 ^ 12 ↔ ((8189 ^ 2 : Nat) : ℝ) ≤ x ^ 2 * 2 ^ 26 ∧ x ^ 2 * 2 ^ 26 ≤ ((8195 ^ 2 : Nat) : ℝ) := by
  have hsq : x ^ 2 * 2 ^ 26 = (x * 2 ^ 13) ^ 2 := by ring
  rw [hsq, Nat.cast_pow, Nat.cast_pow, pow_le_pow_iff_left₀ (by norm_num) (by positivity) (by norm_num),
    pow_le_pow_iff_left₀ (by positivity) (by norm_num) (by norm_num), abs_le]
  norm_num
  constructor <;> rintro ⟨hlo, hhi⟩ <;> constructor <;> linarith

/-- The square of the estimate's error is a number that the model computes with integers. -/
theorem sq_mul_sqrt_eq (m n : Nat) (h g : Int) :
    ((m * 2 ^ h : ℝ) * Real.sqrt (n * 2 ^ g)) ^ 2 * 2 ^ 26 = (m * m * n : Nat) * 2 ^ (2 * h + g + 26) := by
  rw [mul_pow, Real.sq_sqrt (by positivity), zpow_add₀ (by norm_num), zpow_add₀ (by norm_num), two_mul,
    zpow_add₀ (by norm_num)]
  push_cast
  ring

theorem estWithin_iff {a : W32} (ha : IsPosNormal a) (e : W32) : estWithin a e = true ↔ EstContract a e := by
  obtain ⟨n, g, hda⟩ := datum32_of_isFin32 ha.fin
  rw [ha.sign] at hda
  have hnot : isFin32 e = false → ¬ EstContract a e := fun hf hc => Bool.false_ne_true (hf.symm.trans hc.1.fin)
  cases hde : datum32 e with
  | nan => exact iff_of_false (by simp [estWithin, hda, hde]) (hnot (by simp [isFin32, hde, isFin]))
  | inf s => exact iff_of_false (by simp [estWithin, hda, hde]) (hnot (by simp [isFin32, hde, isFin]))
  | fin s m h =>
    cases s with
    | true =>
      refine iff_of_false (by simp [estWithin, hda, hde]) fun hc => ?_
      exact absurd ((isPosNormal_iff_datum hde).1 hc.1).1 (by decide)
    | false =>
      have hva : ((value32 a : ℚ) : ℝ) = n * 2 ^ g := by rw [value32, hda, numberOf_fin]; rfl
      have hve : ((value32 e : ℚ) : ℝ) = m * 2 ^ h := by rw [value32, hde, numberOf_fin]; rfl
      rw [EstContract, isPosNormal_iff_datum hde, hva, hve, abs_sub_one_le_iff (by positivity), sq_mul_sqrt_eq]
      simp only [estWithin, hda, hde, Bool.and_eq_true, decide_eq_true_eq, true_and, and_assoc]
      rw [(mul_two_pow_toNat_le_iff (8189 ^ 2) _ _).1, (mul_two_pow_toNat_le_iff (8195 ^ 2) _ _).2]

/-- One over a root, with both rounded, is within the contract's relative error of the reciprocal root. -/
theorem abs_mul_sub_one_le_of_two_roundings {x r q : ℝ} (hx : 0 < x) (hr : |r - x| ≤ x / 2 ^ 23)
    (hq : |q - 1 / r| ≤ 1 / r / 2 ^ 23) : |q * x - 1| ≤ 1.5 / 2 ^ 12 := by
  obtain ⟨hr1, hr2⟩ := abs_le.1 hr
  norm_num at hr1 hr2
  have hrpos : 0 < r := by linarith
  obtain ⟨hq1, hq2⟩ := abs_le.1 hq
  have hqr : q * x = (q * r) * (x / r) := by field_simp
  have hz1 : 1 - 1 / 2 ^ 23 ≤ q * r := by
    rw [← div_le_iff₀ hrpos]
    linarith [show (1 - 1 / 2 ^ 23) / r = 1 / r - 1 / r / 2 ^ 23 by ring]
  have hz2 : q * r ≤ 1 + 1 / 2 ^ 23 := by
    rw [← le_div_iff₀ hrpos]
    linarith [show (1 + 1 / 2 ^ 23) / r = 1 / r + 1 / r / 2 ^ 23 by ring]
  have hw1 : 1 - 1 / 2 ^ 22 ≤ x / r := by
    rw [le_div_iff₀ hrpos]
    norm_num
    linarith
  have hw2 : x / r ≤ 1 + 1 / 2 ^ 22 := by
    rw [div_le_iff₀ hrpos]
    norm_num
    linarith
  rw [hqr, abs_le]
  norm_num at hz1 hz2 hw1 hw2 ⊢
  constructor <;> nlinarith

theorem IsPosNormal.sqrt_bounds {a : W32} (ha : IsPosNormal a) :
    2 ^ (-63 : ℤ) ≤ Real.sqrt ((value32 a : ℚ) : ℝ) ∧ Real.sqrt ((value32 a : ℚ) : ℝ) < 2 ^ 64 := by
  obtain ⟨hlo, hhi⟩ := ha.value_bounds
  refine ⟨Real.le_sqrt_of_sq_le ?_, (Real.sqrt_lt' (by positivity)).2 ?_⟩
  · norm_num at hlo ⊢
    exact hlo
  · norm_num at hhi ⊢
    exact hhi

/-- The root of a positive normal stays in the normal range (R108). -/
theorem fsqrt_relative_error (d : Draw32) {a : W32} (ha : IsPosNormal a) :
    isFin32 (fsqrt d a) = true ∧
      |(value32 (fsqrt d a) : ℝ) - Real.sqrt ((value32 a : ℚ) : ℝ)| ≤ Real.sqrt ((value32 a : ℚ) : ℝ) / 2 ^ 23 := by
  obtain ⟨hlo, hhi⟩ := ha.sqrt_bounds
  obtain ⟨-, -, -, -, hround⟩ := fsqrtFollowsItsRule.1 d a
  norm_num at hlo hhi
  exact (hround ha.fin ha.sign).relative_error (by norm_num; linarith) (by norm_num; linarith)

/-- The reciprocal of a number between `2^-64` and `2^65` is a positive normal (R105). -/
theorem fdiv_one_relative_error (d : Draw32) {r : W32} (hr : isFin32 r = true)
    (hlo : 1 / 2 ^ 64 ≤ ((value32 r : ℚ) : ℝ)) (hhi : ((value32 r : ℚ) : ℝ) ≤ 2 ^ 65) :
    IsPosNormal (fdiv d C_ONE r) ∧
      |(value32 (fdiv d C_ONE r) : ℝ) - 1 / (value32 r : ℚ)| ≤ 1 / (value32 r : ℚ) / 2 ^ 23 := by
  obtain ⟨-, -, -, -, -, -, hdiv⟩ := fdivFollowsItsRule.1 d C_ONE r
  obtain ⟨h1fin, hone⟩ := C_ONE_value
  have hpos : (0 : ℝ) < (value32 r : ℚ) := lt_of_lt_of_le (by positivity) hlo
  obtain ⟨hround, -⟩ := hdiv h1fin hr (Rat.cast_pos.1 hpos).ne'
  rw [hone, Rat.cast_div, Rat.cast_one] at hround
  have hinvlo : 1 / 2 ^ 65 ≤ 1 / ((value32 r : ℚ) : ℝ) := one_div_le_one_div_of_le hpos hhi
  have hinvhi : 1 / ((value32 r : ℚ) : ℝ) ≤ 1 / (1 / 2 ^ 64) := one_div_le_one_div_of_le (by positivity) hlo
  norm_num at hinvlo hinvhi
  obtain ⟨hfin, herr⟩ := hround.relative_error (by norm_num; linarith) (by norm_num; linarith)
  refine ⟨(isPosNormal_iff_value hfin).2 ?_, herr⟩
  have herr1 := (abs_le.1 herr).1
  norm_num at herr1 ⊢
  linarith

/-- The reference estimate meets the contract (R203). -/
theorem estContract_estRef (d : Draw32) {a : W32} (ha : IsPosNormal a) : EstContract a (estRef d a) := by
  obtain ⟨hlo, hhi⟩ := ha.sqrt_bounds
  obtain ⟨hrfin, hr⟩ := fsqrt_relative_error d ha
  obtain ⟨hr1, hr2⟩ := abs_le.1 hr
  norm_num at hlo hhi hr1 hr2
  obtain ⟨hnormal, hq⟩ := fdiv_one_relative_error d hrfin (by norm_num; linarith) (by norm_num; linarith)
  exact ⟨hnormal, abs_mul_sub_one_le_of_two_roundings (by linarith) hr hq⟩

section
variable (est : W32 → W32) (d : Draw32) {a : W32}

theorem isNaN32_rsqrtEst_of_isNaN32 (h : isNaN32 a = true) : isNaN32 (rsqrtEst est d a) = true := by
  rw [rsqrtEst, (isNaN32_iff a).1 h]
  exact isNaN32_bitsOfNaN32 _

theorem rsqrtEst_pinf : rsqrtEst est d C_PINF = C_ZERO := by
  rw [rsqrtEst, show datum32 C_PINF = .inf false by decide]
  rfl

/-- Zeros and subnormals (R203). -/
theorem rsqrtEst_of_mag_lt (h : mag32 a < 0x00800000) :
    rsqrtEst est d a = if a.msb then C_MINF else C_PINF := by
  have hlt : magOf (k := 31) a < 0x00800000 := h
  have hd : datum32 a = .fin a.msb (b32.sig (magOf (k := 31) a)) (b32.lowExp (magOf (k := 31) a)) :=
    datum_of_lt b32 a.msb (hlt.trans (by rw [b32_infMag]; decide))
  have hsig := (two_pow_23_le_sig_iff (magOf (k := 31) a)).not.2 hlt.not_ge
  rw [rsqrtEst, hd]
  exact if_pos (not_le.1 hsig)

/-- Below the subnormals: negative normals, `-∞` and NaNs (R203). -/
theorem isNaN32_rsqrtEst_of_neg (hs : a.msb = true) (h : 0x00800000 ≤ mag32 a) :
    isNaN32 (rsqrtEst est d a) = true := by
  have hge : ¬ b32.sig (magOf (k := 31) a) < 2 ^ 23 := not_lt.2 ((two_pow_23_le_sig_iff _).2 h)
  rcases b32_fits.datumOf_cases (k := 31) a with ⟨-, hd⟩ | ⟨-, hd⟩ | ⟨-, hd⟩ <;>
    rw [← datum32_eq] at hd
  · rw [rsqrtEst, hd, hs]
    simp only [if_neg hge, if_true]
    exact isNaN32_bitsOfNaN32 _
  · rw [rsqrtEst, hd, hs]
    exact isNaN32_bitsOfNaN32 _
  · exact isNaN32_rsqrtEst_of_isNaN32 est d ((isNaN32_iff a).2 hd)

/-- On a positive normal the raw bits are used where they meet the contract (log 6). -/
theorem rsqrtEst_of_isPosNormal (ha : IsPosNormal a) :
    rsqrtEst est d a = if estWithin a (est a) then est a else estRef d a := by
  obtain ⟨n, g, hd⟩ := datum32_of_isFin32 ha.fin
  obtain ⟨hs, hn⟩ := (isPosNormal_iff_datum hd).1 ha
  rw [rsqrtEst, hd, hs]
  exact if_neg (not_lt.2 hn)

theorem rsqrtEst_of_estContract (ha : IsPosNormal a) (h : EstContract a (est a)) : rsqrtEst est d a = est a := by
  rw [rsqrtEst_of_isPosNormal est d ha, if_pos ((estWithin_iff ha _).2 h)]

theorem estContract_rsqrtEst (ha : IsPosNormal a) : EstContract a (rsqrtEst est d a) := by
  rw [rsqrtEst_of_isPosNormal est d ha]
  split
  next h => exact (estWithin_iff ha _).1 h
  next => exact estContract_estRef d ha

end

/-- Settles O55: the model's test is the contract, and what stands in for raw bits outside it meets it too. -/
theorem estimateMeetsItsContract : Obligations.EstimateMeetsItsContract := by
  refine fun est d a => ⟨fun hfin hs hbits => ⟨?_, fun efin es ebits herr => ?_⟩, ?_, fun hs hlt => ?_, fun hs hlt => ?_,
    isNaN32_rsqrtEst_of_neg est d, isNaN32_rsqrtEst_of_isNaN32 est d⟩
  · obtain ⟨⟨efin, es, ebits⟩, herr⟩ := estContract_rsqrtEst est d ⟨hfin, hs, hbits⟩
    exact ⟨efin, es, ebits, herr⟩
  · exact rsqrtEst_of_estContract est d ⟨hfin, hs, hbits⟩ ⟨⟨efin, es, ebits⟩, herr⟩
  · rintro rfl
    exact rsqrtEst_pinf est d
  · rw [rsqrtEst_of_mag_lt est d (show magOf (k := 31) a < _ from toNat_eq_magOf hs ▸ hlt), hs]
    rfl
  · rw [rsqrtEst_of_mag_lt est d hlt, hs]
    rfl

end Sys2Proof.Machine
end

section
/-! The masks of the approximate modes (42_sqrt_rsqrt.md R204, R206): comparisons with `+0` and `FLT_MIN`. -/

namespace Sys2Proof.Machine

theorem C_MHALF_value : isFin32 C_MHALF = true ∧ value32 C_MHALF = -1 / 2 := by
  obtain ⟨hfin, hval⟩ := value32_eq_of_datum32 (show datum32 C_MHALF = .fin true 8388608 (-24) by decide)
  exact ⟨hfin, hval.trans (by norm_num [signedInt])⟩

theorem C_THREEHALF_value : isFin32 C_THREEHALF = true ∧ value32 C_THREEHALF = 3 / 2 := by
  obtain ⟨hfin, hval⟩ := value32_eq_of_datum32 (show datum32 C_THREEHALF = .fin false 12582912 (-23) by decide)
  exact ⟨hfin, hval.trans (by norm_num [signedInt])⟩

theorem C_FLT_MIN_value : isFin32 C_FLT_MIN = true ∧ value32 C_FLT_MIN = 2 ^ (-126 : ℤ) := by
  obtain ⟨hfin, hval⟩ := value32_eq_of_datum32 (show datum32 C_FLT_MIN = .fin false 8388608 (-149) by decide)
  exact ⟨hfin, hval.trans (by norm_num [signedInt])⟩

theorem maskOf_eq_maskOf_decide {p : Prop} [Decidable p] {c : Bool} (h : maskOf c = TRUE32 ↔ p) :
    maskOf c = maskOf (decide p) := by
  rw [maskOf_eq_true_iff] at h
  rw [Bool.eq_iff_iff.2 (h.trans decide_eq_true_iff.symm)]

section
variable {a b : W32} (ha : isFin32 a = true) (hb : isFin32 b = true)
include ha hb

theorem place32_le_iff : place32 a ≤ place32 b ↔ value32 a ≤ value32 b := by
  rw [place32_of_isFin32 ha, place32_of_isFin32 hb, EReal.coe_le_coe_iff, Rat.cast_le]

theorem cmpLT_of_isFin32 : cmpLT a b = maskOf (decide (value32 a < value32 b)) := by
  refine maskOf_eq_maskOf_decide ((cmpLT_iff a b).trans ?_)
  simp only [isNaN32_of_isFin32 ha, isNaN32_of_isFin32 hb, true_and, ← not_le, place32_le_iff hb ha]

theorem cmpGE_of_isFin32 : cmpGE a b = maskOf (decide (value32 b ≤ value32 a)) := by
  refine maskOf_eq_maskOf_decide ((cmpGE_iff a b).trans ?_)
  simp only [isNaN32_of_isFin32 ha, isNaN32_of_isFin32 hb, true_and, place32_le_iff hb ha]

end

/-- A comparison is false with a NaN (R114). -/
theorem cmpLT_of_isNaN32 {a : W32} (h : isNaN32 a = true) (b : W32) : cmpLT a b = FALSE32 := by
  rw [cmpLT, (isNaN32_iff a).1 h]
  rfl

theorem cmpGE_of_isNaN32 {a : W32} (h : isNaN32 a = true) (b : W32) : cmpGE a b = FALSE32 := by
  rw [cmpGE, (isNaN32_iff a).1 h]
  rfl

theorem vandnot_true32 (a : W32) : vandnot TRUE32 a = C_ZERO := BitVec.zero_and

theorem vandnot_false32 (a : W32) : vandnot FALSE32 a = a := BitVec.allOnes_and

theorem eq_C_PINF_of_datum32 {w : W32} (h : datum32 w = .inf false) : w = C_PINF :=
  ((b32_fits.eq_packOf_of_inf (k := 31) h).2).symm

theorem eq_C_MINF_of_datum32 {w : W32} (h : datum32 w = .inf true) : w = C_MINF :=
  ((b32_fits.eq_packOf_of_inf (k := 31) h).2).symm

theorem eq_infinity_of_isInf32 {w : W32} (h : isInf32 w = true) : w = C_PINF ∨ w = C_MINF := by
  have hd := datum32_of_isInf32 h
  cases hs : w.msb with
  | false => exact .inl (eq_C_PINF_of_datum32 (hs ▸ hd))
  | true => exact .inr (eq_C_MINF_of_datum32 (hs ▸ hd))

/-- The zeros and the positive numbers up to `FLT_MIN`. -/
theorem value32_of_toNat_le {a : W32} (h : a = C_SIGN ∨ (a.msb = false ∧ a.toNat ≤ 0x00800000)) :
    isFin32 a = true ∧ 0 ≤ value32 a ∧ value32 a ≤ 2 ^ (-126 : ℤ) := by
  rcases h with rfl | ⟨hs, hle⟩
  · obtain ⟨hfin, hval⟩ := value32_eq_of_datum32 (show datum32 C_SIGN = .fin true 0 (-149) by decide)
    refine ⟨hfin, ?_⟩
    rw [hval]
    norm_num [signedInt]
  · have hfin : isFin32 a = true := (b32_fits.isFin_iff (k := 31) a).2
      (toNat_eq_magOf hs ▸ hle.trans_lt (by rw [b32_infMag]; decide))
    have hval := value32_of_msb_false hfin hs
    have hlo := grid_nonneg b32 a.toNat
    have hhi := (grid_strictMono b32).monotone hle
    rw [grid_fltMin] at hhi
    rw [← hval] at hlo hhi
    refine ⟨hfin, by exact_mod_cast hlo, Rat.cast_le (K := ℝ).1 (hhi.trans_eq ?_)⟩
    push_cast
    rfl

/-- The zeros and the positive subnormals. -/
theorem value32_of_toNat_lt {a : W32} (h : a = C_SIGN ∨ (a.msb = false ∧ a.toNat < 0x00800000)) :
    isFin32 a = true ∧ 0 ≤ value32 a ∧ value32 a < 2 ^ (-126 : ℤ) := by
  obtain ⟨hfin, hlo, hhi⟩ := value32_of_toNat_le (h.imp_right (And.imp_right Nat.le_of_lt))
  refine ⟨hfin, hlo, lt_of_le_of_ne hhi fun heq => ?_⟩
  have hnormal : IsPosNormal a := (isPosNormal_iff_value hfin).2 (by rw [heq]; push_cast; exact le_refl _)
  rcases h with rfl | ⟨-, hlt⟩
  · exact absurd hnormal.sign (by decide)
  · exact hnormal.bits.not_gt hlt

/-- A number with the sign bit that is not `-0`. -/
theorem value32_neg {a : W32} (hfin : isFin32 a = true) (hs : a.msb = true) (hne : a ≠ C_SIGN) : value32 a < 0 := by
  obtain ⟨n, e, hd⟩ := datum32_of_isFin32 hfin
  have hn : n ≠ 0 := fun h0 => hne ((eq_sign_iff hd).2 ⟨hs, h0⟩)
  have hpos : 0 < |numberOf (.fin false n e)| := abs_pos.2 ((numberOf_eq_zero_iff false n e).not.2 hn)
  rw [value32, hd, hs, numberOf_true, Left.neg_neg_iff]
  rw [abs_numberOf] at hpos
  exact hpos

end Sys2Proof.Machine
end

section
/-! The Newton-Raphson step (42_sqrt_rsqrt.md R202) on special estimates, under both settings of `CFG_FMA`. -/

namespace Sys2Proof.Machine

theorem nrStep_eq (fused : Bool) (d : Draws32) (a e : W32) :
    nrStep fused d a e =
      fmul (d 202 4) e (pmadd fused (d 202 3) (fmul (d 202 1) a C_MHALF) (fmul (d 202 2) e e) C_THREEHALF) := rfl

theorem isNaN32_fmul_of_left (d : Draw32) {a : W32} (h : isNaN32 a = true) (b : W32) : isNaN32 (fmul d a b) = true :=
  (fmulFollowsItsRule d a b).1 (.inl h)

theorem isNaN32_fmul_of_right (d : Draw32) (a : W32) {b : W32} (h : isNaN32 b = true) : isNaN32 (fmul d a b) = true :=
  (fmulFollowsItsRule d a b).1 (.inr h)

/-- With no product there is no sum (R107). -/
theorem isNaN32_pmadd_of_mulD (fused : Bool) (d : Draw32) {a b : W32} (h : mulD (datum32 a) (datum32 b) = .nan)
    (c : W32) : isNaN32 (pmadd fused d a b c) = true := by
  cases fused with
  | false =>
    have hmul : isNaN32 (fmul d a b) = true := by rw [fmul, h]; exact isNaN32_finish32_nan _
    exact (faddFollowsItsRule d (fmul d a b) c).1 (.inl hmul)
  | true =>
    show isNaN32 (fma d a b c) = true
    rw [fma, h]
    exact isNaN32_finish32_nan _

/-- A positive number times `+∞`, and a number added (R107). -/
theorem pmadd_pinf (fused : Bool) (d : Draw32) {a c : W32} (ha : isFin32 a = true) (hpos : 0 < value32 a)
    (hc : isFin32 c = true) : pmadd fused d a C_PINF c = C_PINF := by
  have hs := msb_eq_false_of_value_pos ha hpos
  have hinf : isInf32 C_PINF = true := by decide
  have hcinf : ∀ s : Bool, ¬ (isInf32 c = true ∧ s ≠ c.msb) ∧ ¬ (isInf32 c = true ∧ c.msb ≠ s) := by
    obtain ⟨n, e, hd⟩ := datum32_of_isFin32 hc
    simp [isInf32, hd]
  have hmul : fmul d a C_PINF = C_PINF := by
    obtain ⟨-, -, hrule, -⟩ := fmulFollowsItsRule d C_PINF a
    refine eq_C_PINF_of_datum32 ((hrule hinf (.inr ⟨ha, hpos.ne'⟩)).2.trans ?_)
    rw [hs]
    rfl
  cases fused with
  | false =>
    obtain ⟨-, -, hrule, -⟩ := faddFollowsItsRule d C_PINF c
    show fadd d (fmul d a C_PINF) c = C_PINF
    rw [hmul]
    exact hrule hinf (isNaN32_of_isFin32 hc) (hcinf _).1
  | true =>
    obtain ⟨-, -, -, hrule, -⟩ := fmaFollowsItsRule d C_PINF a c
    refine eq_C_PINF_of_datum32
      ((hrule hinf (.inr ⟨ha, hpos.ne'⟩) (isNaN32_of_isFin32 hc) (hcinf _).2).2.trans ?_)
    rw [hs]
    rfl

/-- Nothing added to 1.5 (R107). -/
theorem pmadd_zero_threehalf (fused : Bool) (d : Draw32) {a : W32} (ha : isFin32 a = true) :
    isFin32 (pmadd fused d a C_ZERO C_THREEHALF) = true ∧ value32 (pmadd fused d a C_ZERO C_THREEHALF) = 3 / 2 := by
  obtain ⟨h0fin, h0⟩ := C_ZERO_value
  obtain ⟨hcfin, hc⟩ := C_THREEHALF_value
  have hthree : (3 / 2 : ℚ) = (3 : ℤ) * 2 ^ (-1 : ℤ) := by norm_num
  cases fused with
  | false =>
    obtain ⟨hp, hpval⟩ := (isRound32_fmul d ha h0fin).eq_scaled (k := 0) (e := -1) (by decide) (by decide) (by decide)
      (by rw [h0]; norm_num)
    rw [hthree]
    exact (isRound32_fadd d hp hcfin).eq_scaled (by decide) (by decide) (by decide)
      (by rw [hpval, hc]; norm_num)
  | true =>
    rw [hthree]
    exact (isRound32_fma d ha h0fin hcfin).eq_scaled (by decide) (by decide) (by decide) (by rw [h0, hc]; norm_num)

theorem fmul_zero_left (d : Draw32) {b : W32} (hb : isFin32 b = true) (hs : b.msb = false) :
    fmul d C_ZERO b = C_ZERO := by
  obtain ⟨n, e, hd⟩ := datum32_of_isFin32 hb
  rw [fmul, show datum32 C_ZERO = .fin false 0 (-149) by decide, hd, hs, mulD_fin_fin, Nat.zero_mul, finish32_zero]
  rfl

/-- Half a number is a number. -/
theorem isFin32_fmul_mhalf (d : Draw32) {a : W32} (ha : isFin32 a = true) : isFin32 (fmul d a C_MHALF) = true := by
  obtain ⟨hmfin, hm⟩ := C_MHALF_value
  refine ((isRound32_fmul d ha hmfin).1 ?_).1
  obtain ⟨hlo, hhi⟩ := abs_lt.1 (abs_value32_lt ha)
  rw [hm, abs_lt]
  norm_num at hlo hhi ⊢
  constructor <;> linarith

/-- From the estimate `+0` the step stays at `+0` (R202). -/
theorem nrStep_zero (fused : Bool) (d : Draws32) {a : W32} (ha : isFin32 a = true) :
    nrStep fused d a C_ZERO = C_ZERO := by
  obtain ⟨hu, huval⟩ := pmadd_zero_threehalf fused (d 202 3) (isFin32_fmul_mhalf (d 202 1) ha)
  rw [nrStep_eq, show fmul (d 202 2) C_ZERO C_ZERO = C_ZERO from rfl]
  exact fmul_zero_left _ hu (msb_eq_false_of_value_pos hu (by rw [huval]; norm_num))

theorem isNaN32_nrStep_of_isNaN32 (fused : Bool) (d : Draws32) (a : W32) {e : W32} (h : isNaN32 e = true) :
    isNaN32 (nrStep fused d a e) = true := isNaN32_fmul_of_left _ h _

/-- An infinite operand times the estimate `+0` is no number (R202). -/
theorem isNaN32_nrStep_of_isInf32 (fused : Bool) (d : Draws32) {a : W32} (h : isInf32 a = true) :
    isNaN32 (nrStep fused d a C_ZERO) = true := by
  rw [nrStep_eq, show fmul (d 202 2) C_ZERO C_ZERO = C_ZERO from rfl]
  refine isNaN32_fmul_of_right _ _ (isNaN32_pmadd_of_mulD _ _ ?_ _)
  rcases eq_infinity_of_isInf32 h with rfl | rfl
  · rw [show fmul (d 202 1) C_PINF C_MHALF = C_MINF from rfl]
    decide
  · rw [show fmul (d 202 1) C_MINF C_MHALF = C_PINF from rfl]
    decide

end Sys2Proof.Machine
end

section
/-! `prsqrt.f32`, approximate mode, on special lanes (42_sqrt_rsqrt.md R206, R207). -/

namespace Sys2Proof.Machine

/-- Combining a NaN with any word gives a NaN: its exponent field stays full, and its fraction does not become zero. -/
theorem isNaN32_vor {x : W32} (h : isNaN32 x = true) (y : W32) : isNaN32 (vor x y) = true := by
  have hx : b32.infMag < magOf (k := 31) x := by
    rcases b32_fits.datumOf_cases (k := 31) x with ⟨-, hd⟩ | ⟨-, hd⟩ | ⟨hgt, -⟩
    · exact absurd (((isNaN32_iff x).1 h).symm.trans hd) Datum.noConfusion
    · exact absurd (((isNaN32_iff x).1 h).symm.trans hd) Datum.noConfusion
    · exact hgt
  have hle : magOf (k := 31) x ≤ magOf (k := 31) (vor x y) := by
    rw [magOf, magOf, vor, BitVec.toNat_or, Nat.or_mod_two_pow]
    exact Nat.left_le_or
  exact (isNaN32_iff _).2 (b32_fits.datum_of_gt _ (hx.trans_le hle) (magOf_lt (k := 31) _))

/-- The special-value word of R206. -/
def rsqrtSpecial (a : W32) : W32 :=
  vor (vand (cmpLT a C_ZERO) C_QNAN) (vand (vandnot (cmpLT a C_ZERO) (cmpLT a C_FLT_MIN)) C_PINF)

theorem prsqrtApprox_eq (est : W32 → W32) (cfg : Cfg) (d : Draws32) (a : W32) :
    prsqrtApprox est cfg d a =
      vor (nrStep cfg.fma d a (vandnot (cmpLT a C_FLT_MIN) (rsqrtEst est (d 206 2) a))) (rsqrtSpecial a) := rfl

section
variable (est : W32 → W32) (cfg : Cfg) (d : Draws32) {a : W32}

/-- A number below `FLT_MIN` has a masked estimate, so its lane is the special-value word alone. -/
theorem prsqrtApprox_of_lt_fltMin (ha : isFin32 a = true) (h : cmpLT a C_FLT_MIN = TRUE32) :
    prsqrtApprox est cfg d a = rsqrtSpecial a := by
  rw [prsqrtApprox_eq, h, vandnot_true32, nrStep_zero _ _ ha]
  exact BitVec.zero_or

/-- Zeros and positive subnormals (R207). -/
theorem prsqrtApprox_of_toNat_lt (h : a = C_SIGN ∨ (a.msb = false ∧ a.toNat < 0x00800000)) :
    prsqrtApprox est cfg d a = C_PINF := by
  obtain ⟨hfin, hlo, hhi⟩ := value32_of_toNat_lt h
  obtain ⟨h0fin, h0⟩ := C_ZERO_value
  obtain ⟨hmfin, hm⟩ := C_FLT_MIN_value
  have hzero : cmpLT a C_ZERO = FALSE32 := by
    rw [cmpLT_of_isFin32 hfin h0fin, h0, decide_eq_false hlo.not_gt]
    rfl
  have hmin : cmpLT a C_FLT_MIN = TRUE32 := by
    rw [cmpLT_of_isFin32 hfin hmfin, hm, decide_eq_true hhi]
    rfl
  rw [prsqrtApprox_of_lt_fltMin est cfg d hfin hmin, rsqrtSpecial, hzero, hmin]
  decide

/-- Numbers below zero (R207). -/
theorem prsqrtApprox_of_neg (hfin : isFin32 a = true) (hs : a.msb = true) (hne : a ≠ C_SIGN) :
    prsqrtApprox est cfg d a = C_QNAN := by
  have hneg := value32_neg hfin hs hne
  obtain ⟨h0fin, h0⟩ := C_ZERO_value
  obtain ⟨hmfin, hm⟩ := C_FLT_MIN_value
  have hzero : cmpLT a C_ZERO = TRUE32 := by
    rw [cmpLT_of_isFin32 hfin h0fin, h0, decide_eq_true hneg]
    rfl
  have hmin : cmpLT a C_FLT_MIN = TRUE32 := by
    rw [cmpLT_of_isFin32 hfin hmfin, hm, decide_eq_true (hneg.trans (by positivity))]
    rfl
  rw [prsqrtApprox_of_lt_fltMin est cfg d hfin hmin, rsqrtSpecial, hzero, hmin]
  decide

/-- Infinities: the estimate is `+0`, or masked to it (R207). -/
theorem isNaN32_prsqrtApprox_of_isInf32 (h : isInf32 a = true) : isNaN32 (prsqrtApprox est cfg d a) = true := by
  have hest : vandnot (cmpLT a C_FLT_MIN) (rsqrtEst est (d 206 2) a) = C_ZERO := by
    rcases eq_infinity_of_isInf32 h with rfl | rfl
    · rw [rsqrtEst_pinf]
      decide
    · rw [show cmpLT C_MINF C_FLT_MIN = TRUE32 by decide, vandnot_true32]
  rw [prsqrtApprox_eq, hest]
  exact isNaN32_vor (isNaN32_nrStep_of_isInf32 _ _ h) _

/-- NaNs: no comparison holds, so the estimate is not masked (R207). -/
theorem isNaN32_prsqrtApprox_of_isNaN32 (h : isNaN32 a = true) : isNaN32 (prsqrtApprox est cfg d a) = true := by
  rw [prsqrtApprox_eq, cmpLT_of_isNaN32 h, vandnot_false32]
  exact isNaN32_vor (isNaN32_nrStep_of_isNaN32 _ _ _ (isNaN32_rsqrtEst_of_isNaN32 est _ h)) _

end

/-- Settles O56: by the two comparisons of R206, which decide the estimate's mask and the special-value word. -/
theorem prsqrtApproxSpecialLanes : Obligations.PrsqrtApproxSpecialLanes := by
  refine fun est cfg d a => ⟨?_, fun hs hlt => prsqrtApprox_of_toNat_lt est cfg d (.inr ⟨hs, hlt⟩),
    prsqrtApprox_of_neg est cfg d, ?_⟩
  · rintro (rfl | rfl)
    · exact prsqrtApprox_of_toNat_lt est cfg d (.inr (by decide))
    · exact prsqrtApprox_of_toNat_lt est cfg d (.inl rfl)
  · rintro (h | h)
    · exact isNaN32_prsqrtApprox_of_isInf32 est cfg d h
    · exact isNaN32_prsqrtApprox_of_isNaN32 est cfg d h

end Sys2Proof.Machine
end

section
/-! `psqrt.f32`, approximate mode, on special lanes (42_sqrt_rsqrt.md R204, R205). -/

namespace Sys2Proof.Machine

theorem sqrtTiny_of_toNat_le {a : W32} (h : a = C_SIGN ∨ (a.msb = false ∧ a.toNat ≤ 0x00800000)) :
    sqrtTiny a = TRUE32 := by
  obtain ⟨hfin, hlo, hhi⟩ := value32_of_toNat_le h
  obtain ⟨h0fin, h0⟩ := C_ZERO_value
  obtain ⟨hmfin, hm⟩ := C_FLT_MIN_value
  rw [sqrtTiny, cmpGE_of_isFin32 hfin h0fin, cmpGE_of_isFin32 hmfin hfin, h0, hm, decide_eq_true hlo,
    decide_eq_true hhi]
  decide

/-- Below zero the first comparison of the mask is false. -/
theorem sqrtTiny_of_neg {a : W32} (hs : a.msb = true) (hne : a ≠ C_SIGN) : sqrtTiny a = FALSE32 := by
  have hge : cmpGE a C_ZERO = FALSE32 := by
    rcases b32_fits.datumOf_cases (k := 31) a with ⟨hlt, -⟩ | ⟨-, hd⟩ | ⟨-, hd⟩
    · obtain ⟨h0fin, h0⟩ := C_ZERO_value
      have hfin : isFin32 a = true := (b32_fits.isFin_iff (k := 31) a).2 hlt
      rw [cmpGE_of_isFin32 hfin h0fin, h0, decide_eq_false (value32_neg hfin hs hne).not_ge]
      rfl
    · obtain rfl : a = C_MINF := eq_C_MINF_of_datum32 (hd.trans (congrArg Datum.inf hs))
      decide
    · exact cmpGE_of_isNaN32 ((isNaN32_iff a).2 hd) _
  rw [sqrtTiny, hge]
  exact BitVec.zero_and

theorem sqrtTiny_of_isNaN32 {a : W32} (h : isNaN32 a = true) : sqrtTiny a = FALSE32 := by
  rw [sqrtTiny, cmpGE_of_isNaN32 h]
  exact BitVec.zero_and

/-- The operands that have no approximate root (R205): the smallest negative subnormal, every negative normal, the
infinities and the NaNs. -/
def NoApproxRoot (a : W32) : Prop :=
  a = 0x80000001 ∨ (a.msb = true ∧ 0x00800000 ≤ mag32 a) ∨ isNaN32 a = true ∨ a = C_PINF

theorem sqrtTiny_of_noApproxRoot {a : W32} (h : NoApproxRoot a) : sqrtTiny a = FALSE32 := by
  rcases h with rfl | ⟨hs, hge⟩ | h | rfl
  · decide
  · refine sqrtTiny_of_neg hs ?_
    rintro rfl
    exact absurd hge (by decide)
  · exact sqrtTiny_of_isNaN32 h
  · decide

section
variable (est : W32 → W32) (cfg : Cfg) (d : Draws32) {a : W32}

/-- The estimate is a NaN, or the step multiplies a zero by an infinity: for the smallest subnormal, whose half rounds
to zero, by the square of the estimate `-∞`; for `+∞` by that of the estimate `+0`. -/
theorem isNaN32_sqrtProduct (h : NoApproxRoot a) : isNaN32 (sqrtProduct est cfg d a) = true := by
  refine isNaN32_fmul_of_right _ _ ?_
  rcases h with rfl | ⟨hs, hge⟩ | h | rfl
  · rw [rsqrtEst_of_mag_lt est _ (by decide), nrStep_eq]
    refine isNaN32_fmul_of_right _ _ (isNaN32_pmadd_of_mulD _ _ ?_ _)
    rw [if_pos (by decide), show fmul (d 202 1) 0x80000001 C_MHALF = C_ZERO from rfl,
      show fmul (d 202 2) C_MINF C_MINF = C_PINF from rfl]
    decide
  · exact isNaN32_nrStep_of_isNaN32 _ _ _ (isNaN32_rsqrtEst_of_neg est _ hs hge)
  · exact isNaN32_nrStep_of_isNaN32 _ _ _ (isNaN32_rsqrtEst_of_isNaN32 est _ h)
  · rw [rsqrtEst_pinf]
    exact isNaN32_nrStep_of_isInf32 _ _ (by decide)

/-- The value of a negative subnormal but the smallest. -/
theorem value32_of_neg_subnormal (hs : a.msb = true) (h2 : 2 ≤ mag32 a) (hlt : mag32 a < 0x00800000) :
    isFin32 a = true ∧ value32 a ≤ -(2 * 2 ^ (-149 : ℤ)) ∧ -2 ^ (-126 : ℤ) ≤ value32 a := by
  have hinf : magOf (k := 31) a < b32.infMag := lt_trans hlt (by rw [b32_infMag]; decide)
  have hval : ((value32 a : ℚ) : ℝ) = -b32.grid (mag32 a) := by
    refine (valueOf_eq_signedReal (k := 31) b32 hinf).trans ?_
    rw [hs]
    rfl
  have hgrid2 : b32.grid 2 = 2 * 2 ^ (-149 : ℤ) := by
    have h : b32.sig 2 = 2 ∧ b32.lowExp 2 = -149 := by decide
    rw [Fmt.grid, h.1, h.2]
    norm_num
  have hlo := (grid_strictMono b32).monotone h2
  have hhi := (grid_strictMono b32).monotone hlt.le
  rw [hgrid2] at hlo
  rw [grid_fltMin] at hhi
  refine ⟨(b32_fits.isFin_iff (k := 31) a).2 hinf, Rat.cast_le (K := ℝ).1 ?_, Rat.cast_le (K := ℝ).1 ?_⟩
  · rw [hval]
    norm_num at hlo ⊢
    exact hlo
  · rw [hval]
    norm_num at hhi ⊢
    exact hhi

/-- A negative subnormal but the smallest: its half stays above zero, so the step is `-∞` from the estimate `-∞`
(R202, R205). -/
theorem sqrtProduct_of_neg_subnormal (hs : a.msb = true) (h2 : 2 ≤ mag32 a) (hlt : mag32 a < 0x00800000) :
    sqrtProduct est cfg d a = C_PINF := by
  obtain ⟨hfin, hhi, hlo⟩ := value32_of_neg_subnormal hs h2 hlt
  obtain ⟨hmfin, hm⟩ := C_MHALF_value
  obtain ⟨hhfin, hhpos, -⟩ := (isRound32_fmul (d 202 1) hfin hmfin).between_scaled (lo := 1) (hi := 2 ^ 22) (e := -149)
    (by decide) (by decide) (by decide) (by decide) (by rw [hm]; norm_num at hhi ⊢; linarith)
    (by rw [hm]; norm_num at hlo ⊢; linarith)
  have hstep : nrStep cfg.fma d a C_MINF = C_MINF := by
    rw [nrStep_eq, show fmul (d 202 2) C_MINF C_MINF = C_PINF from rfl,
      pmadd_pinf _ _ hhfin (lt_of_lt_of_le (by positivity) hhpos) C_THREEHALF_value.1]
    rfl
  have hne : value32 a ≠ 0 := by
    norm_num at hhi
    linarith
  obtain ⟨-, -, hrule, -⟩ := fmulFollowsItsRule (d 204 3) C_MINF a
  rw [sqrtProduct, rsqrtEst_of_mag_lt est _ hlt, hs, if_pos rfl, hstep]
  refine eq_C_PINF_of_datum32 ((hrule (by decide) (.inr ⟨hfin, hne⟩)).2.trans ?_)
  rw [hs]
  rfl

/-- A masked lane is `+0` whatever the product (R204). -/
theorem psqrtApprox_of_tiny (h : sqrtTiny a = TRUE32) : psqrtApprox est cfg d a = C_ZERO := by
  cases hmax : cfg.psqrtRawMax with
  | false => rw [psqrtApprox_noRawMax est hmax, h, vandnot_true32]
  | true => rw [psqrtApprox_rawMax est hmax, h, vandnot_true32]

/-- `+∞` is the maximum against any number (R204). -/
theorem psqrtApprox_of_pinf (htiny : sqrtTiny a = FALSE32) (hfin : isFin32 a = true)
    (h : sqrtProduct est cfg d a = C_PINF) : psqrtApprox est cfg d a = C_PINF := by
  cases hmax : cfg.psqrtRawMax with
  | false => rw [psqrtApprox_noRawMax est hmax, htiny, vandnot_false32, h]
  | true =>
    have hlt : place32 a < place32 C_PINF := by
      rw [place32_of_isFin32 hfin]
      exact EReal.coe_lt_top _
    rw [psqrtApprox_rawMax est hmax, htiny, vandnot_false32, h]
    exact (maxAndMinChooseByOrder C_PINF a).1 (by decide) (isNaN32_of_isFin32 hfin) hlt

end

/-- Settles O57: by the mask of R204, and where it is false by the product; a NaN product leaves the maximum to the
operand. -/
theorem psqrtApproxSpecialLanes : Obligations.PsqrtApproxSpecialLanes := by
  refine fun est cfg d a => ⟨fun h => psqrtApprox_of_tiny est cfg d (sqrtTiny_of_toNat_le h),
    fun hfin hs h2 hlt => psqrtApprox_of_pinf est cfg d (sqrtTiny_of_neg hs ?_) hfin
      (sqrtProduct_of_neg_subnormal est cfg d hs h2 hlt), fun hmax h => ?_, fun hmax h => ?_⟩
  · rintro rfl
    exact absurd h2 (by decide)
  · rw [psqrtApprox_rawMax est hmax, sqrtTiny_of_noApproxRoot h, vandnot_false32]
    exact (maxAndMinChooseByOrder _ a).2.1 (.inl (isNaN32_sqrtProduct est cfg d h))
  · rw [psqrtApprox_noRawMax est hmax, sqrtTiny_of_noApproxRoot h, vandnot_false32]
    exact isNaN32_sqrtProduct est cfg d h

end Sys2Proof.Machine
end

section
/-! `pexp.f32` (43_exp.md R231, R233, R235): the last maximum bounds a lane from below, and an operand enters the value
before it through the clamp of R170 alone. -/

namespace Sys2Proof.Machine

section
variable (cfg : Cfg) (d : Fin 8 → Draws32) {a b : Lanes32} {i : Fin 8}

/-- The lines of R231 before the last maximum, in one lane. -/
theorem expValue_apply (a : Lanes32) (i : Fin 8) :
    expValue cfg d a i = fmul (d i 231 4) (expPoly cfg (d i) (rrExp cfg (d i) (a i)).2)
      (shl (iadd (cvttF2I (rrExp cfg (d i) (a i)).1) 127) 23) :=
  congrArg (fmul (d i 231 4) (expPoly cfg (d i) (rrExp cfg (d i) (a i)).2)) (pow2F_apply cfg.wideShift _ i)

/-- Operands with one clamp are reduced alike (R170). -/
theorem rrExp_congr (d : Draws32) {x y : W32} (h : expClamp cfg x = expClamp cfg y) : rrExp cfg d x = rrExp cfg d y := by
  simp only [rrExp, h]

theorem expValue_congr (h : expClamp cfg (a i) = expClamp cfg (b i)) : expValue cfg d a i = expValue cfg d b i := by
  rw [expValue_apply, expValue_apply, rrExp_congr cfg (d i) h]

end

/-- From `E_HI` on, an operand is clamped as `E_HI` is (R170): of two equal places the minimum takes `E_HI` itself. -/
theorem expClamp_of_hi_le {cfg : Cfg} {x : W32} (h : place32 cfg.ke.E_HI ≤ place32 x) :
    expClamp cfg x = expClamp cfg cfg.ke.E_HI := by
  have hmin : ∀ y, place32 cfg.ke.E_HI ≤ place32 y → fmin y cfg.ke.E_HI = cfg.ke.E_HI := fun y hy => by
    obtain ⟨-, -, -, hsecond⟩ := maxAndMinChooseByOrder y cfg.ke.E_HI
    exact hsecond (.inr (.inr hy))
  rw [expClamp, expClamp, hmin x h, hmin _ le_rfl]

/-- R111 with a second operand that is no NaN. -/
theorem le_fmax_right (x : W32) {y : W32} (hy : isNaN32 y = false) :
    isNaN32 (fmax x y) = false ∧ place32 y ≤ place32 (fmax x y) := by
  rcases fmax_cases x y with hmax | ⟨hmax, hx, hlt⟩
  · rw [hmax]
    exact ⟨hy, le_rfl⟩
  · rw [hmax]
    exact ⟨hx, hlt.le⟩

/-- Settles O51: the operand comes second in the last maximum, so a NaN there is the result, and any other operand bounds
the result from below (R111, R235). -/
theorem pexpIsNeverBelowItsOperand : Obligations.PexpIsNeverBelowItsOperand := by
  intro cfg d a i
  obtain ⟨-, hsecond, -, -⟩ := maxAndMinChooseByOrder (expValue cfg d a i) (a i)
  exact ⟨fun hnan => hsecond (.inr (.inl hnan)), fun hnum => le_fmax_right (expValue cfg d a i) hnum⟩

/-- Settles O52: the operand and `E_HI` have one clamp (R170, R233). -/
theorem pexpSaturatesAboveItsClamp : Obligations.PexpSaturatesAboveItsClamp := by
  intro cfg d a b i _ _ hle hb
  have hvalue : expValue cfg d a i = expValue cfg d b i :=
    expValue_congr cfg d ((expClamp_of_hi_le hle).trans (congrArg (expClamp cfg) hb.symm))
  exact ⟨hvalue, congrArg (fmax · (a i)) hvalue⟩

/-- Settles O23: an answered lane, with the power of two written out by R129. -/
theorem pexpAnswersTheHead : Obligations.PexpAnswersTheHead := by
  intro s e rest hq
  obtain ⟨y, hexec, hy⟩ := exists_exec_eq_response hq .pexpF32
  refine ⟨y, hexec, fun hclean k => ?_⟩
  rw [hy hclean, resultOf, lanes32_pexpVec]
  exact congrArg (fmax · (lanes32 e.a k)) (expValue_apply s.pins.cfg _ _ k)

end Sys2Proof.Machine
end

section
/-! The masks of `plog.f32` (41_poly_range.md R171, 44_log.md R253): an operand is zero, invalid or positive, by
its place against that of `+0`. -/

namespace Sys2Proof.Machine

theorem maskOf_eq_false_of_ne {c : Bool} (h : maskOf c ≠ TRUE32) : maskOf c = FALSE32 :=
  (maskOf_canonical c).resolve_left h

/-- What is not at least `b` is not equal to `b`: the two comparisons of R171 exclude each other (R253). -/
theorem cmpEQ_of_cmpNGE {a b : W32} (h : cmpNGE a b = TRUE32) : cmpEQ a b = FALSE32 := by
  refine maskOf_eq_false_of_ne fun heq => ?_
  obtain ⟨ha, hb, hplace⟩ := (cmpEQ_iff a b).1 heq
  rcases (cmpNGE_iff a b).1 h with hnan | hnan | hlt
  · exact Bool.false_ne_true (ha.symm.trans hnan)
  · exact Bool.false_ne_true (hb.symm.trans hnan)
  · exact hlt.ne hplace

/-- Above `b` both comparisons of R171 are false. -/
theorem logMasks_of_place_lt {a b : W32} (ha : isNaN32 a = false) (hb : isNaN32 b = false)
    (h : place32 b < place32 a) : cmpEQ a b = FALSE32 ∧ cmpNGE a b = FALSE32 := by
  refine ⟨maskOf_eq_false_of_ne fun heq => ?_, maskOf_eq_false_of_ne fun hnge => ?_⟩
  · obtain ⟨-, -, hplace⟩ := (cmpEQ_iff a b).1 heq
    exact h.ne' hplace
  · rcases (cmpNGE_iff a b).1 hnge with hnan | hnan | hlt
    · exact Bool.false_ne_true (ha.symm.trans hnan)
    · exact Bool.false_ne_true (hb.symm.trans hnan)
    · exact h.not_gt hlt

theorem cmpEQ_zero_of_isZero {a : W32} (h : a = C_ZERO ∨ a = C_SIGN) : cmpEQ a C_ZERO = TRUE32 := by
  rcases h with rfl | rfl <;> decide

/-- A sign bit puts every operand but `-0` and the NaNs below `+0`, `-∞` too. -/
theorem place32_lt_zero_of_neg {a : W32} (hnan : isNaN32 a = false) (hs : a.msb = true) (hne : a ≠ C_SIGN) :
    place32 a < place32 C_ZERO := by
  obtain ⟨h0fin, h0⟩ := C_ZERO_value
  rcases b32_fits.datumOf_cases (k := 31) a with ⟨hlt, -⟩ | ⟨-, hd⟩ | ⟨-, hd⟩
  · have hfin : isFin32 a = true := (b32_fits.isFin_iff (k := 31) a).2 hlt
    have hneg := value32_neg hfin hs hne
    rw [← not_le, place32_le_iff h0fin hfin, h0]
    exact hneg.not_ge
  · obtain rfl : a = C_MINF := eq_C_MINF_of_datum32 (hd.trans (congrArg Datum.inf hs))
    rw [place32_of_isFin32 h0fin]
    exact EReal.bot_lt_coe _
  · exact absurd hd ((isNaN32_eq_false_iff a).1 hnan)

/-- A positive operand up to `FLT_MIN` lies above `+0`, and not above `FLT_MIN`. -/
theorem place32_of_pos_of_le_fltMin {a : W32} (hpos : 0 < a.toNat) (hle : a.toNat ≤ 0x00800000) :
    isNaN32 a = false ∧ place32 C_ZERO < place32 a ∧ place32 a ≤ place32 C_FLT_MIN := by
  have hs : a.msb = false := by
    rw [BitVec.msb_eq_decide, decide_eq_false_iff_not]
    omega
  obtain ⟨hfin, -, hmin⟩ := value32_of_toNat_le (.inr ⟨hs, hle⟩)
  obtain ⟨h0fin, h0⟩ := C_ZERO_value
  obtain ⟨hmfin, hm⟩ := C_FLT_MIN_value
  have hgrid : b32.grid 0 < b32.grid a.toNat := grid_strictMono b32 hpos
  rw [grid_zero, ← value32_of_msb_false hfin hs] at hgrid
  refine ⟨isNaN32_of_isFin32 hfin, ?_, ?_⟩
  · rw [← not_le, place32_le_iff hfin h0fin, h0]
    exact (Rat.cast_pos.1 hgrid).not_ge
  · rwa [place32_le_iff hfin hmfin, hm]

/-- A positive operand up to `FLT_MIN` is clamped to `FLT_MIN`, and is neither zero nor invalid (R171). -/
theorem logClamp_and_masks_of_le_fltMin {a : W32} (hpos : 0 < a.toNat) (hle : a.toNat ≤ 0x00800000) :
    logClamp a = C_FLT_MIN ∧ cmpEQ a C_ZERO = FALSE32 ∧ cmpNGE a C_ZERO = FALSE32 := by
  obtain ⟨hnan, habove, hbelow⟩ := place32_of_pos_of_le_fltMin hpos hle
  obtain ⟨-, hsecond, -, -⟩ := maxAndMinChooseByOrder a C_FLT_MIN
  exact ⟨hsecond (.inr (.inr hbelow)), logMasks_of_place_lt hnan (isNaN32_of_isFin32 C_ZERO_value.1) habove⟩

end Sys2Proof.Machine
end

section
/-! `plog.f32` (44_log.md R251 to R253): one lane, line by line, and the lanes that the masks or the clamp decide. -/

namespace Sys2Proof.Machine

theorem logInject_zero (inv x : W32) : logInject TRUE32 inv x = C_MINF := by
  rw [logInject, vandnot_true32]
  decide

theorem logInject_invalid (x : W32) : logInject FALSE32 TRUE32 x = 0xFFFFFFFF := by
  rw [logInject, vandnot_false32, vor, vor, show vand FALSE32 C_MINF = 0#32 from rfl, BitVec.or_zero]
  exact BitVec.or_allOnes

section
variable (cfg : Cfg) (d : Fin 8 → Draws32) {a b : Lanes32} {i : Fin 8}

/-- The reduction of R171 in one lane, with the exponent of R128 written out. -/
theorem rrLog_apply (a : Lanes32) (i : Fin 8) :
    rrLog cfg d a i = rrLogLane cfg (d i) (a i) (cvtI2F (shr (logClamp (a i)) 23)) :=
  congrArg (rrLogLane cfg (d i) (a i)) (expoF_apply cfg.wideShift _ i)

/-- The lines of R251 in one lane, with the masks as comparisons of the operand. -/
theorem plogLanes_apply (a : Lanes32) (i : Fin 8) :
    plogLanes cfg d a i =
      logInject (cmpEQ (a i) C_ZERO) (cmpNGE (a i) C_ZERO)
        (logCombine cfg (d i) (rrLog cfg d a i).x (rrLog cfg d a i).e) := rfl

/-- Lanes with one clamp and the same two masks have one result: a lane reads its operand in no other way. -/
theorem plogLanes_congr_clamp_and_masks (hclamp : logClamp (a i) = logClamp (b i))
    (hisz : cmpEQ (a i) C_ZERO = cmpEQ (b i) C_ZERO) (hinv : cmpNGE (a i) C_ZERO = cmpNGE (b i) C_ZERO) :
    plogLanes cfg d a i = plogLanes cfg d b i := by
  simp only [plogLanes_apply, rrLog_apply, rrLogLane, hclamp, hisz, hinv]

theorem plogLanes_of_isZero (h : a i = C_ZERO ∨ a i = C_SIGN) : plogLanes cfg d a i = C_MINF := by
  rw [plogLanes_apply, cmpEQ_zero_of_isZero h, logInject_zero]

theorem plogLanes_of_invalid (h : cmpNGE (a i) C_ZERO = TRUE32) : plogLanes cfg d a i = 0xFFFFFFFF := by
  rw [plogLanes_apply, cmpEQ_of_cmpNGE h, h, logInject_invalid]

end

/-- Settles O48: `-0` has the place of `+0`, so it is equal to it; and what is equal is not below (R253). -/
theorem minusZeroIsZeroNotInvalid : Obligations.MinusZeroIsZeroNotInvalid := by
  refine ⟨by decide, cmpEQ_zero_of_isZero (.inr rfl), fun cfg d a i h => plogLanes_of_isZero cfg d (.inr h),
    fun cfg d a i => ?_⟩
  rintro ⟨hisz, hinv⟩
  have hnot : (rrLog cfg d a i).isz = FALSE32 := cmpEQ_of_cmpNGE hinv
  exact absurd (hisz.symm.trans hnot) (by decide)

/-- Settles O49: the is-zero mask decides the zeros, the invalid mask the NaNs and what lies below `+0` (R252). -/
theorem plogSpecialLanes : Obligations.PlogSpecialLanes := by
  refine fun cfg d a i => ⟨plogLanes_of_isZero cfg d, fun hnan => ?_, fun hnan hs hne => ?_⟩
  · exact plogLanes_of_invalid cfg d ((cmpNGE_iff _ _).2 (.inl hnan))
  · exact plogLanes_of_invalid cfg d ((cmpNGE_iff _ _).2 (.inr (.inr (place32_lt_zero_of_neg hnan hs hne))))

/-- Settles O50: a subnormal and `FLT_MIN` have one clamp and the same masks (R171, R252). -/
theorem plogOfSubnormalIsPlogOfFltMin : Obligations.PlogOfSubnormalIsPlogOfFltMin := by
  intro cfg d a b i hpos hlt hb
  obtain ⟨hclamp, hisz, hinv⟩ := logClamp_and_masks_of_le_fltMin hpos hlt.le
  obtain ⟨hclampMin, hiszMin, hinvMin⟩ :=
    logClamp_and_masks_of_le_fltMin (a := b i) (by rw [hb]; decide) (by rw [hb]; decide)
  exact plogLanes_congr_clamp_and_masks cfg d (hclamp.trans hclampMin.symm) (hisz.trans hiszMin.symm)
    (hinv.trans hinvMin.symm)

/-- Settles O22: an answered lane, with the exponent written out by R128 and the lines of R251 by the dataflow. -/
theorem plogAnswersTheHead : Obligations.PlogAnswersTheHead := by
  intro s e rest hq
  obtain ⟨y, hexec, hy⟩ := exists_exec_eq_response hq .plogF32
  refine ⟨y, hexec, fun hclean k => ?_⟩
  rw [hy hclean, resultOf, lanes32_plogVec, plogLanes_apply, rrLog_apply]
  rfl

end Sys2Proof.Machine
end

section
/-! `psin.f32` (45_sin.md R271): one lane, line by line. -/

namespace Sys2Proof.Machine

section
variable (cfg : Cfg) (d : Fin 8 → Draws32) {a : Lanes32} {i : Fin 8}

/-- The lines of R271 in one lane, with the sign flip of R130 written out. -/
theorem psinLanes_apply (a : Lanes32) (i : Fin 8) :
    psinLanes cfg d a i =
      vxor (select (cmpGT (rrSin cfg (d i) (a i)).1 C_ONE) (sinEven cfg (d i) (rrSin cfg (d i) (a i)).1)
          (sinOdd cfg (d i) (rrSin cfg (d i) (a i)).1))
        (shl (vand (cvttF2I (rrSin cfg (d i) (a i)).2) 1) 31) :=
  congrArg₂ vxor (BitVec.or_comm _ _) (sflip_apply cfg.wideShift _ i)

/-- Outside the interval of the even polynomial, a lane is the odd one with the sign flip. -/
theorem psinLanes_eq_sinOdd (h : cmpGT (rrSin cfg (d i) (a i)).1 C_ONE = FALSE32) :
    psinLanes cfg d a i =
      vxor (sinOdd cfg (d i) (rrSin cfg (d i) (a i)).1) (shl (vand (cvttF2I (rrSin cfg (d i) (a i)).2) 1) 31) := by
  rw [psinLanes_apply, h, select_false32]

end

/-- Settles O21: an answered lane, with the sign flip written out by R130. -/
theorem psinAnswersTheHead : Obligations.PsinAnswersTheHead := by
  intro s e rest hq
  obtain ⟨y, hexec, hy⟩ := exists_exec_eq_response hq .psinF32
  refine ⟨y, hexec, fun hclean k => ?_⟩
  rw [hy hclean, resultOf, lanes32_psinVec]
  exact psinLanes_apply s.pins.cfg _ _ k

end Sys2Proof.Machine
end

section
/-! The reduction of the sine (41_poly_range.md R169) on special operands. -/

namespace Sys2Proof.Machine

theorem isNaN32_pmadd_of_addend (fused : Bool) (d : Draw32) (a b : W32) {c : W32} (h : isNaN32 c = true) :
    isNaN32 (pmadd fused d a b c) = true := by
  cases fused with
  | false => exact (faddFollowsItsRule d (fmul d a b) c).1 (.inr h)
  | true => exact (fmaFollowsItsRule d a b c).1 (.inr (.inr h))

/-- An infinite product and the opposite infinity have no sum (R107). -/
theorem isNaN32_pmadd_of_opposite_infinities (fused : Bool) (d : Draw32) {a b c : W32} {s : Bool}
    (hprod : mulD (datum32 a) (datum32 b) = .inf !s) (hc : datum32 c = .inf s) :
    isNaN32 (pmadd fused d a b c) = true := by
  have hsum : addD (.inf !s) (.inf s) = .nan := by rw [addD_inf_inf, if_neg (Bool.not_ne_self s)]
  cases fused with
  | false =>
    show isNaN32 (fadd d (fmul d a b) c) = true
    rw [fadd, fmul, hprod, datum32_finish32_inf, hc, hsum]
    exact isNaN32_finish32_nan _
  | true =>
    show isNaN32 (fma d a b c) = true
    rw [fma, hprod, hc, hsum]
    exact isNaN32_finish32_nan _

theorem datum32_of_isZero {z : W32} (h : z = C_ZERO ∨ z = C_SIGN) : datum32 z = .fin z.msb 0 (-149) := by
  rcases h with rfl | rfl <;> decide

/-- Finishing an exact zero with the sign of a zero gives that zero. -/
theorem finish32_of_isZero (x : NaN32) {z : W32} (h : z = C_ZERO ∨ z = C_SIGN) (e : Int) :
    finish32 x (.fin z.msb 0 e) = z := by
  rw [finish32_zero]
  rcases h with rfl | rfl <;> rfl

/-- A zero times a number is a zero (R104). -/
theorem mulD_of_isZero {z b : W32} (hz : z = C_ZERO ∨ z = C_SIGN) (hb : isFin32 b = true) :
    ∃ e, mulD (datum32 z) (datum32 b) = .fin (z.msb ^^ b.msb) 0 e := by
  obtain ⟨n, e, hd⟩ := datum32_of_isFin32 hb
  rw [datum32_of_isZero hz, hd, mulD_fin_fin, Nat.zero_mul]
  exact ⟨_, rfl⟩

section
variable (d : Draw32) {z b : W32} (hz : z = C_ZERO ∨ z = C_SIGN) (hb : isFin32 b = true) (hs : b.msb = false)
include hz hb hs

/-- A zero times a positive number is that zero. -/
theorem fmul_of_isZero_left : fmul d z b = z := by
  obtain ⟨e, hprod⟩ := mulD_of_isZero hz hb
  rw [fmul, hprod, hs, Bool.xor_false, finish32_of_isZero _ hz]

theorem fmul_of_isZero_right : fmul d b z = z := by
  obtain ⟨e, hprod⟩ := mulD_of_isZero hz hb
  rw [fmul, mulD_comm, hprod, hs, Bool.xor_false, finish32_of_isZero _ hz]

end

/-- `-0` added to a zero is that zero (R102). -/
theorem addD_negative_zero {z : W32} (hz : z = C_ZERO ∨ z = C_SIGN) (e : Int) :
    addD (.fin true 0 e) (datum32 z) = .fin z.msb 0 (min e (-149)) := by
  have hzero : ∀ (s : Bool) (g : Int), numberOf (.fin s 0 g) = 0 := fun s g => (numberOf_eq_zero_iff s 0 g).2 rfl
  rw [datum32_of_isZero hz, addD_of_sum_eq_zero (by rw [hzero, hzero, add_zero])]
  simp

/-- `+0` times a negative number is `-0`, and a zero added to it is the result (R107). -/
theorem pmadd_negative_zero (fused : Bool) (d : Draw32) {b z : W32} (hb : isFin32 b = true) (hs : b.msb = true)
    (hz : z = C_ZERO ∨ z = C_SIGN) : pmadd fused d C_ZERO b z = z := by
  obtain ⟨e, hprod⟩ := mulD_of_isZero (.inl rfl : C_ZERO = C_ZERO ∨ _) hb
  rw [hs, show (C_ZERO.msb ^^ true) = true from rfl] at hprod
  cases fused with
  | false =>
    show fadd d (fmul d C_ZERO b) z = z
    have hmul : fmul d C_ZERO b = C_SIGN := by rw [fmul, hprod]; exact finish32_zero _ true e
    rw [fadd, hmul, datum32_of_isZero (.inr rfl : C_SIGN = C_ZERO ∨ _), show C_SIGN.msb = true from rfl,
      addD_negative_zero hz, finish32_of_isZero _ hz]
  | true =>
    show fma d C_ZERO b z = z
    rw [fma, hprod, addD_negative_zero hz, finish32_of_isZero _ hz]

/-- Rounding the value of a pattern gives that value. -/
theorem IsRound32.eq_value32 {v : ℚ} {w c : W32} (h : IsRound32 (v : ℝ) w) (hc : isFin32 c = true)
    (hv : v = value32 c) : isFin32 w = true ∧ value32 w = value32 c := by
  obtain ⟨hfin, hlo, hhi⟩ := h.between hc hc hv.ge hv.le
  exact ⟨hfin, hhi.antisymm hlo⟩

/-- A product with `+0` leaves the value of the number it is added to (R107). -/
theorem pmadd_zero_factor (fused : Bool) (d : Draw32) {a c : W32} (ha : isFin32 a = true) (hc : isFin32 c = true) :
    isFin32 (pmadd fused d a C_ZERO c) = true ∧ value32 (pmadd fused d a C_ZERO c) = value32 c := by
  obtain ⟨h0fin, h0⟩ := C_ZERO_value
  cases fused with
  | false =>
    obtain ⟨hp, hpval⟩ := (isRound32_fmul d ha h0fin).eq_value32 h0fin (by rw [h0, mul_zero])
    exact (isRound32_fadd d hp hc).eq_value32 hc (by rw [hpval, h0, zero_add])
  | true => exact (isRound32_fma d ha h0fin hc).eq_value32 hc (by rw [h0, mul_zero, zero_add])

/-- A quarter added to a zero is rounded down to `+0` (R102, R113). -/
theorem ffloor_fadd_quarter (d d' : Draw32) {z : W32} (hz : z = C_ZERO ∨ z = C_SIGN) :
    ffloor d (fadd d' z C_QUARTER) = C_ZERO := by
  obtain ⟨hqfin, hq⟩ := value32_eq_of_datum32 (show datum32 C_QUARTER = .fin false 8388608 (-25) by decide)
  obtain ⟨hzfin, hz0⟩ : isFin32 z = true ∧ value32 z = 0 := by
    rw [isFin32, value32, datum32_of_isZero hz, numberOf_eq_zero_iff]
    exact ⟨rfl, rfl⟩
  obtain ⟨hfin, hval⟩ := (isRound32_fadd d' hzfin hqfin).eq_value32 hqfin (by rw [hz0, zero_add])
  have hquarter : value32 (fadd d' z C_QUARTER) = 1 / 4 := (hval.trans hq).trans (by norm_num [signedInt])
  obtain ⟨-, -, -, hfloor, -⟩ := ffloorFollowsItsRule d (fadd d' z C_QUARTER)
  exact hfloor hfin (by rw [hquarter]; norm_num) (by rw [hquarter]; norm_num)

section
variable (cfg : Cfg) (d : Draws32) (x : W32)

theorem rrSin_snd :
    (rrSin cfg d x).2 = ffloor (d 169 2) (fadd (d 169 2) (fmul (d 169 1) x cfg.ks.S_1PI) C_QUARTER) := rfl

theorem rrSin_fst :
    (rrSin cfg d x).1 =
      fmul (d 169 6)
        (pmadd cfg.fma (d 169 5) (rrSin cfg d x).2 cfg.ks.S_NP3
          (pmadd cfg.fma (d 169 4) (rrSin cfg d x).2 cfg.ks.S_NP2
            (pmadd cfg.fma (d 169 3) (rrSin cfg d x).2 cfg.ks.S_NP1 x)))
        cfg.ks.S_4PI := rfl

end

section
variable {cfg : Cfg} (d : Draws32) {x : W32}

/-- A NaN after the first multiply-add stays one to the end of R169. -/
theorem isNaN32_rrSin_fst (h : isNaN32 (pmadd cfg.fma (d 169 3) (rrSin cfg d x).2 cfg.ks.S_NP1 x) = true) :
    isNaN32 (rrSin cfg d x).1 = true := by
  rw [rrSin_fst]
  exact isNaN32_fmul_of_left _ (isNaN32_pmadd_of_addend _ _ _ _ (isNaN32_pmadd_of_addend _ _ _ _ h)) _

/-- The reference shift of an infinity is that infinity. -/
theorem rrSin_snd_of_isInf32 (hks : cfg.ks = referenceKS) (h : isInf32 x = true) : (rrSin cfg d x).2 = x := by
  have hquarter : isFin32 C_QUARTER = true := by decide
  have hmul : fmul (d 169 1) x referenceKS.S_1PI = x := by
    rcases eq_infinity_of_isInf32 h with rfl | rfl <;> rfl
  have hadd : fadd (d 169 2) x C_QUARTER = x := by
    obtain ⟨-, -, hrule, -⟩ := faddFollowsItsRule (d 169 2) x C_QUARTER
    exact hrule h (isNaN32_of_isFin32 hquarter) (fun hinf => absurd hinf.1 (by decide))
  obtain ⟨-, hfloor, -⟩ := ffloorFollowsItsRule (d 169 2) x
  rw [rrSin_snd, hks, hmul, hadd]
  exact hfloor (.inl h)

/-- `S_NP1` is negative, so the first multiply-add of R169 adds opposite infinities. -/
theorem isNaN32_rrSin_fst_of_isInf32 (hks : cfg.ks = referenceKS) (h : isInf32 x = true) :
    isNaN32 (rrSin cfg d x).1 = true := by
  refine isNaN32_rrSin_fst d (isNaN32_pmadd_of_opposite_infinities (s := x.msb) _ _ ?_ (datum32_of_isInf32 h))
  rw [rrSin_snd_of_isInf32 d hks h, hks]
  rcases eq_infinity_of_isInf32 h with rfl | rfl <;> decide

/-- The reference reduction gives a zero back with its sign, and the shift `+0`: a quarter is rounded down. -/
theorem rrSin_of_isZero (hks : cfg.ks = referenceKS) (hx : x = C_ZERO ∨ x = C_SIGN) :
    rrSin cfg d x = (x, C_ZERO) := by
  have hshift : (rrSin cfg d x).2 = C_ZERO := by
    rw [rrSin_snd, hks, fmul_of_isZero_left _ hx (by decide) (by decide)]
    exact ffloor_fadd_quarter _ _ hx
  refine Prod.ext ?_ hshift
  rw [rrSin_fst, hshift, hks, pmadd_negative_zero _ _ (by decide) (by decide) hx,
    pmadd_negative_zero _ _ (by decide) (by decide) hx, pmadd_negative_zero _ _ (by decide) (by decide) hx,
    fmul_of_isZero_left _ hx (by decide) (by decide)]

end

end Sys2Proof.Machine
end

section
/-! `psin.f32` on special lanes (45_sin.md R272). -/

namespace Sys2Proof.Machine

theorem cmpGT_of_isNaN32 {a : W32} (h : isNaN32 a = true) (b : W32) : cmpGT a b = FALSE32 := by
  rw [cmpGT, (isNaN32_iff a).1 h]
  rfl

theorem isNaN32_xor_sign {x : W32} (h : isNaN32 x = true) : isNaN32 (x ^^^ C_SIGN) = true := by
  rw [isNaN32_iff, datum32_xor_sign, (isNaN32_iff x).1 h]
  rfl

/-- The sign flip of R271 keeps a NaN. -/
theorem isNaN32_vxor_flip {x : W32} (h : isNaN32 x = true) (w : W32) : isNaN32 (vxor x (shl (vand w 1) 31)) = true := by
  rw [vxor, shl_vand_one]
  split
  · exact isNaN32_xor_sign h
  · rw [show x ^^^ (0 : W32) = x from BitVec.xor_zero]
    exact h

/-- At the square `+0` the factor of R166 has the value of `S_L1`, which is positive in the reference table. -/
theorem sinOddFactor_zero {cfg : Cfg} (d : Draws32) (hks : cfg.ks = referenceKS) :
    isFin32 (sinOddFactor cfg d C_ZERO) = true ∧ (sinOddFactor cfg d C_ZERO).msb = false := by
  obtain ⟨hL1fin, hL1⟩ := value32_eq_of_datum32 (show datum32 referenceKS.S_L1 = .fin false 13176794 (-24) by decide)
  obtain ⟨h5, -⟩ := pmadd_zero_factor cfg.fma (d 166 2) (a := referenceKS.S_L7) (c := referenceKS.S_L5) (by decide)
    (by decide)
  obtain ⟨h3, -⟩ := pmadd_zero_factor cfg.fma (d 166 3) (c := referenceKS.S_L3) h5 (by decide)
  obtain ⟨h1, hval⟩ := pmadd_zero_factor cfg.fma (d 166 4) h3 hL1fin
  rw [sinOddFactor, hks]
  refine ⟨h1, msb_eq_false_of_value_pos h1 ?_⟩
  rw [hval, hL1]
  norm_num [signedInt]

/-- With the reference table the odd polynomial gives a zero back (R166). -/
theorem sinOdd_of_isZero {cfg : Cfg} (d : Draws32) (hks : cfg.ks = referenceKS) {z : W32}
    (hz : z = C_ZERO ∨ z = C_SIGN) : sinOdd cfg d z = z := by
  obtain ⟨hfin, hs⟩ := sinOddFactor_zero d hks
  have hsquare : fmul (d 166 1) z z = C_ZERO := by rcases hz with rfl | rfl <;> rfl
  rw [sinOdd_eq_fmul, hsquare]
  exact fmul_of_isZero_right _ hz hfin hs

section
variable (cfg : Cfg) (d : Fin 8 → Draws32) {a : Lanes32} {i : Fin 8}

/-- A NaN as reduced argument selects the odd polynomial, which multiplies by it. -/
theorem isNaN32_psinLanes (h : isNaN32 (rrSin cfg (d i) (a i)).1 = true) : isNaN32 (psinLanes cfg d a i) = true := by
  rw [psinLanes_eq_sinOdd cfg d (cmpGT_of_isNaN32 h _), sinOdd_eq_fmul]
  exact isNaN32_vxor_flip (isNaN32_fmul_of_right _ _ h) _

/-- A zero lane is its own sine, in every vector and on both paths of the shift. -/
theorem psinLanes_of_isZero (hks : cfg.ks = referenceKS) (h : a i = C_ZERO ∨ a i = C_SIGN) :
    psinLanes cfg d a i = a i := by
  have hred := rrSin_of_isZero (d i) hks h
  have hival : cmpGT (a i) C_ONE = FALSE32 := by rcases h with hz | hz <;> rw [hz] <;> decide
  have hflip : shl (vand (cvttF2I C_ZERO) 1) 31 = 0#32 := by decide
  rw [psinLanes_eq_sinOdd cfg d (by rw [hred]; exact hival), hred, sinOdd_of_isZero (d i) hks h, hflip]
  exact BitVec.xor_zero

end

/-- Settles O59: the operand is the addend of the first multiply-add of the reduction, so a NaN there reaches the reduced
argument; an infinity meets its opposite there. -/
theorem psinOfNaNAndInfinityIsNaN : Obligations.PsinOfNaNAndInfinityIsNaN :=
  fun cfg d _ i =>
    ⟨fun hnan => isNaN32_psinLanes cfg d (isNaN32_rrSin_fst (d i) (isNaN32_pmadd_of_addend _ _ _ _ hnan)),
      fun hks hinf => isNaN32_psinLanes cfg d (isNaN32_rrSin_fst_of_isInf32 (d i) hks hinf)⟩

/-- Settles O60: the reference configurations hold the reference table, whichever way `CFG_FMA` is set. -/
theorem psinKeepsZeros : Obligations.PsinKeepsZeros :=
  fun fused d _ =>
    ⟨psinLanes_of_isZero (referenceCfg fused true true true) d rfl (.inl rfl),
      psinLanes_of_isZero (referenceCfg fused true true true) d rfl (.inr rfl)⟩

end Sys2Proof.Machine
end

section
/-! The unit's one error (60_exceptions.md): an illegal word is answered with `(0^256, 1)`, a legal word never sets the error
bit, and neither stops the unit. -/

namespace Sys2Proof.Machine

theorem opFunction_of_illegal {op : OpWord} (h : legal op = false) (env : Env) (cfg : Cfg) (a : Vec) :
    opFunction env cfg op a = (0, true) := by
  obtain ⟨err, hd⟩ := exists_decodeWord_eq_error h
  exact opFunction_of_decode_error hd env cfg a

/-- R303: the word alone decides the error bit. -/
theorem opFunction_err_eq_not_legal (env : Env) (cfg : Cfg) (op : OpWord) (a : Vec) :
    (opFunction env cfg op a).2 = !legal op := by
  cases h : legal op with
  | true =>
    obtain ⟨i, hd⟩ := (exists_decodeWord_eq_ok_iff op).2 h
    rw [opFunction_of_decode_ok hd]
    rfl
  | false =>
    rw [opFunction_of_illegal h]
    rfl

theorem rspErr_of_exec {i : Instr} {s t : State} (h : exec i s = .next t) : t.rspErr = false := by
  rw [exec_eq_answer] at h
  obtain ⟨e, rest, -, rfl⟩ := (answer_eq_next_iff _ _ _ _).1 h
  rfl

/-- A head of `Q` that is due after the edge is answered with the operation function, its word legal or not (R29, R31). -/
theorem step_of_due {s : State} {e : Entry} {rest : List Entry} (hq : (clockEdge s).q = e :: rest)
    (hr : (clockEdge s).pins.rstN = true) (hv : (clockEdge s).rspValid = false) (hw : e.wait = 0) :
    step s = .next ((clockEdge s).offerFunction e) := by
  rcases step_edge_or_offerFunction s with ⟨hnone, -⟩ | ⟨e', rest', hq', -, -, hs⟩
  · exact absurd hw (wait_pos_of_fetch_none hnone hr hv hq).ne'
  · cases hq.symm.trans hq'
    exact hs

/-- The error response (R302), to a request that no change of configuration touched. -/
theorem offerFunction_of_illegal {e : Entry} (hclean : e.spoiled = false) (h : legal e.op = false) (s : State) :
    s.offerFunction e = s.offer 0 true := by
  simp only [State.offerFunction, opFunction_of_illegal h, resultFor_clean hclean]

/-- Settles O14: legal or not, a due head is answered, and with no due head the edge is all there is. -/
theorem everyStepGoesOn : Obligations.EveryStepGoesOn := by
  intro s
  obtain ⟨t, ht⟩ := exists_step_eq_next s
  rw [ht]
  rfl

/-- Settles O16: a due head is answered with the operation function, which for an illegal word is `(0^256, 1)`. -/
theorem illegalWordGetsErrorResponse : Obligations.IllegalWordGetsErrorResponse := by
  intro s e rest hq hr hv hw hclean hillegal
  rw [step_of_due hq hr hv hw, offerFunction_of_illegal hclean hillegal]
  rfl

/-- Settles O17: a word decodes exactly when it is legal, and every meaning answers without the error bit. -/
theorem legalWordNeverSetsError : Obligations.LegalWordNeverSetsError :=
  ⟨opFunction_err_eq_not_legal, fun _ _ _ h => rspErr_of_exec h⟩

end Sys2Proof.Machine
end

section
/-! Edges in reset, out of it, and under a change of configuration (70_reset_and_hazards.md R330, R333, R334): what a step
drops, what it keeps, and what it leaves open. -/

namespace Sys2Proof.Machine

theorem nextQueue_of_reset {s : State} (h : s.pins.rstN = false) : nextQueue s = [] := by
  simp [nextQueue, queueAfterEdge, h]

/-- Out of reset only an answered head leaves `Q`; what comes in stands last, a request of a broken handshake included
(R29, R330, log 10). -/
theorem requests_initial_of_step {s t : State} (h : step s = .next t) (hr : s.pins.rstN = true) :
    (if s.rspValid && s.pins.rspReady then (requests s).tail else requests s) <+: requests t := by
  obtain ⟨-, -, hq, -, -, -, -⟩ := step_frame h
  unfold requests
  rw [hq, nextQueue, map_request_spoil, queueAfterEdge, if_pos hr, queueAfterTransfers, List.map_append,
    map_request_tick, apply_ite (List.map _), List.map_tail]
  exact ⟨_, rfl⟩

theorem holdsRequest_iff (p p' : Pins) :
    holdsRequest p p' = true ↔ p'.reqValid = true ∧ p'.reqOp = p.reqOp ∧ p'.reqA = p.reqA := by
  simp [holdsRequest, and_assoc]

theorem brokenAfter_of_holds {s : State} (hb : s.reqBroken = false)
    (hold : s.pins.reqValid = true → holdsRequest s.pins (nextPins s) = true) : brokenAfter s = false := by
  cases hv : s.pins.reqValid with
  | false => simp [brokenAfter, hv]
  | true => simp [brokenAfter, hb, hold hv]

theorem cfgChanges_iff (s : State) : cfgChanges s = true ↔ (nextPins s).cfg ≠ s.pins.cfg := by
  unfold cfgChanges nextPins
  cases s.script <;> simp

theorem spoiled_of_mem_spoil {e : Entry} {q : List Entry} (h : e ∈ spoil true q) : e.spoiled = true := by
  obtain ⟨e', -, rfl⟩ := List.mem_map.1 h
  exact Bool.or_true _

/-- While a response is held no other is offered: the step is the edge alone (R334). -/
theorem step_of_holdsResponse {s : State} (h : holdsResponse s = true) : step s = .next (clockEdge s) := by
  rcases step_eq_edge_or_offer s with ⟨-, hs⟩ | ⟨hf, -⟩
  · exact hs
  · obtain ⟨bytes, hbytes⟩ := Option.ne_none_iff_exists'.1 hf
    obtain ⟨-, -, -, -, hv, -, -⟩ := (fetch_eq_some_iff _ _).1 hbytes
    exact absurd (hv.symm.trans h) Bool.false_ne_true

/-- Settles O6. -/
theorem resetStateHasNothingInFlight : Obligations.ResetStateHasNothingInFlight := ⟨rfl, rfl, rfl⟩

/-- Settles O7: each clause of the invariant is about a queue or a channel in use, and after reset none is. -/
theorem unitInvHoldsAtReset : Obligations.UnitInvHoldsAtReset where
  quiet := by intro hr; cases hr
  capacity := ⟨Nat.zero_le _, fun _ => Nat.succ_pos _⟩
  patience := Nat.zero_le _
  head := by intro hv; cases hv
  inTime := by intro _ _ e rest hq; cases hq

/-- Settles O9: the frame of a step, the channels in reset, and the queue's equation out of it. -/
theorem resetEdgeDropsRequestsAndOnlyReset : Obligations.ResetEdgeDropsRequestsAndOnlyReset := by
  intro s
  obtain ⟨t, ht⟩ := exists_step_eq_next s
  obtain ⟨hpins, -, hq, -, -, -, -⟩ := step_frame ht
  exact ⟨t, ht, fun hr => hq.trans (nextQueue_of_reset hr), step_quietInReset ht, congrArg Pins.cfg hpins,
    requests_initial_of_step ht⟩

/-- Settles O11: the response is held over the edge, and no other is offered after it. -/
theorem untakenResponseStaysStable : Obligations.UntakenResponseStaysStable := by
  intro s hv hnot hr hr' hcfg
  have hheld : holdsResponse s = true := (holdsResponse_iff s).2 ⟨hv, hnot, hr, hr'⟩
  have hsame : cfgChanges s = false := by
    rw [Bool.eq_false_iff, ne_eq, cfgChanges_iff]
    exact not_not_intro hcfg
  exact ⟨clockEdge s, step_of_holdsResponse hheld, hheld, nextRspY_of_holdsResponse hheld hsame,
    nextRspErr_of_holdsResponse hheld⟩

/-- Settles O12: with `req_ready` = 0 and nothing broken no request is taken, so the queue's equation adds nothing. -/
theorem stableRequestIsNotBroken : Obligations.StableRequestIsNotBroken := by
  intro s hb hready hstable
  obtain ⟨t, ht⟩ := exists_step_eq_next s
  obtain ⟨-, -, hq, hbroken, -, -, -⟩ := step_frame ht
  have hold : s.pins.reqValid = true → holdsRequest s.pins (nextPins s) = true :=
    fun hv => (holdsRequest_iff _ _).2 (hstable hv)
  refine ⟨t, ht, hbroken.trans (brokenAfter_of_holds hb hold), ?_⟩
  rw [requests, hq]
  cases hr : s.pins.rstN with
  | true => simp [map_request_nextQueue hr hb, hready]
  | false => simp [nextQueue_of_reset hr]

/-- Settles O13: the edge marks every entry of the new `Q`, and the error bit of what is offered needs no result. -/
theorem configurationChangeLeavesResultsOpen : Obligations.ConfigurationChangeLeavesResultsOpen := by
  intro s hs hr hcfg
  obtain ⟨t, ht⟩ := exists_step_eq_next s
  obtain ⟨-, -, hq, -, -, -, -⟩ := step_frame ht
  have hchange : cfgChanges s = true := (cfgChanges_iff s).2 hcfg
  refine ⟨t, ht, fun e he => ?_, requests_initial_of_step ht hr, fun hv => ?_⟩
  · rw [hq, nextQueue, hchange] at he
    exact spoiled_of_mem_spoil he
  · obtain ⟨e, rest, hqt, -, herr, -⟩ := (step_keeps_unitInv hs ht).head hv
    exact ⟨e, rest, hqt, herr.trans (opFunction_err_eq_not_legal _ _ _ _)⟩

end Sys2Proof.Machine
end

section
/-! Timing (70_reset_and_hazards.md R337): the pins but for the operand, the words in `Q` and their waits decide what both
handshakes, `Q`'s words and its waits are in the next cycle. -/

namespace Sys2Proof.Machine

theorem sameButOperand_iff (p p' : Pins) :
    sameButOperand p p' ↔
      p.rstN = p'.rstN ∧ p.reqValid = p'.reqValid ∧ p.reqOp = p'.reqOp ∧ p.rspReady = p'.rspReady ∧
        p.cfg = p'.cfg := by
  simp [sameButOperand]

/-- What timing sees of `Q`: the operation words and how long each still waits. -/
def queueTiming (q : List Entry) : List (OpWord × Nat) := q.map (fun e => (e.op, e.wait))

theorem queueTiming_spoil (c : Bool) (q : List Entry) : queueTiming (spoil c q) = queueTiming q := by
  simp [queueTiming, spoil, Function.comp_def]

theorem queueTiming_append (q q' : List Entry) : queueTiming (q ++ q') = queueTiming q ++ queueTiming q' :=
  List.map_append

theorem queueTiming_tail (q : List Entry) : queueTiming q.tail = (queueTiming q).tail := List.map_tail

/-- A cycle of waiting runs on what timing sees. -/
theorem queueTiming_tick (q : List Entry) :
    queueTiming (q.map Entry.tick) = (queueTiming q).map (fun x => (x.1, x.2 - 1)) := by
  simp [queueTiming, Entry.tick, Function.comp_def]

theorem length_eq_of_queueTiming_eq {q q' : List Entry} (h : queueTiming q = queueTiming q') : q.length = q'.length := by
  simpa [queueTiming] using congrArg List.length h

theorem hasRoom_eq_of_queueTiming_eq {q q' : List Entry} (h : queueTiming q = queueTiming q') :
    hasRoom q = hasRoom q' := by
  simp only [hasRoom, length_eq_of_queueTiming_eq h]

theorem queueTiming_newEntry (op : OpWord) (a a' : Vec) :
    queueTiming [newEntry op a] = queueTiming [newEntry op a'] := rfl

section
variable {s t : State} (h : SameTiming s t)
include h

theorem SameTiming.nextPins_same : sameButOperand (nextPins s) (nextPins t) := by
  have hscript := h.script
  unfold nextPins
  cases hs : s.script with
  | nil =>
    rw [hs, List.forall₂_nil_left_iff] at hscript
    rw [hscript]
    exact h.pins
  | cons p ps =>
    rw [hs] at hscript
    obtain ⟨p', ps', hp, -, ht⟩ := List.forall₂_cons_left_iff.1 hscript
    rw [ht]
    exact hp

theorem SameTiming.script_tail : List.Forall₂ sameButOperand s.script.tail t.script.tail := by
  simpa using List.forall₂_drop 1 h.script

theorem SameTiming.responseTaken_eq : responseTaken s = responseTaken t := by
  obtain ⟨-, -, -, hready, -⟩ := (sameButOperand_iff _ _).1 h.pins
  simp only [responseTaken, h.rspValid, hready]

/-- Both units take a request in the same cycles, and with the same word, a broken one too (log 10). -/
theorem SameTiming.takenRequest_timing : queueTiming (takenRequest s).toList = queueTiming (takenRequest t).toList := by
  obtain ⟨-, hvalid, hop, -, -⟩ := (sameButOperand_iff _ _).1 h.pins
  unfold takenRequest
  rw [h.broken, h.reqReady, h.cycle, hasRoom_eq_of_queueTiming_eq h.queue, hvalid, hop]
  split_ifs
  · rfl
  · rfl
  · exact queueTiming_newEntry _ _ _
  · rfl

theorem SameTiming.nextQueue_timing : queueTiming (nextQueue s) = queueTiming (nextQueue t) := by
  obtain ⟨hr, -, -, -, -⟩ := (sameButOperand_iff _ _).1 h.pins
  have hq : queueTiming s.q = queueTiming t.q := h.queue
  have hleft : queueTiming (if responseTaken s then s.q.tail else s.q) =
      queueTiming (if responseTaken t then t.q.tail else t.q) := by
    rw [h.responseTaken_eq]
    split
    · rw [queueTiming_tail, hq, queueTiming_tail]
    · exact hq
  have hedge : queueTiming (queueAfterTransfers s) = queueTiming (queueAfterTransfers t) := by
    simp only [queueAfterTransfers, queueTiming_append, queueTiming_tick, hleft, h.takenRequest_timing]
  rw [nextQueue, nextQueue, queueTiming_spoil, queueTiming_spoil, queueAfterEdge, queueAfterEdge, hr]
  split
  · exact hedge
  · rfl

theorem SameTiming.nextReqReady_eq : nextReqReady s = nextReqReady t := by
  obtain ⟨hr, -, -, hready, -⟩ := (sameButOperand_iff _ _).1 h.nextPins_same
  simp only [nextReqReady, hr, hready, h.cycle, h.held, length_eq_of_queueTiming_eq h.nextQueue_timing]

theorem SameTiming.nextHeld_eq : nextHeld s = nextHeld t := by
  obtain ⟨hr, -, -, hready, -⟩ := (sameButOperand_iff _ _).1 h.nextPins_same
  simp only [nextHeld, hr, hready, h.held, h.nextReqReady_eq, hasRoom_eq_of_queueTiming_eq h.nextQueue_timing]

theorem SameTiming.holdsResponse_eq : holdsResponse s = holdsResponse t := by
  obtain ⟨hr, -, -, hready, -⟩ := (sameButOperand_iff _ _).1 h.pins
  obtain ⟨hr', -, -, -, -⟩ := (sameButOperand_iff _ _).1 h.nextPins_same
  simp only [holdsResponse, h.rspValid, hr, hready, hr']

theorem SameTiming.brokenAfter_eq
    (hold : holdsRequest s.pins (nextPins s) = holdsRequest t.pins (nextPins t)) :
    brokenAfter s = brokenAfter t := by
  obtain ⟨-, hvalid, -, -, -⟩ := (sameButOperand_iff _ _).1 h.pins
  simp only [brokenAfter, hvalid, h.reqReady, h.broken, hold]

/-- The edge keeps the timing the same. -/
theorem SameTiming.clockEdge_same
    (hold : holdsRequest s.pins (nextPins s) = holdsRequest t.pins (nextPins t)) :
    SameTiming (clockEdge s) (clockEdge t) where
  pins := h.nextPins_same
  script := h.script_tail
  reqReady := h.nextReqReady_eq
  rspValid := h.holdsResponse_eq
  queue := h.nextQueue_timing
  broken := h.brokenAfter_eq hold
  held := h.nextHeld_eq
  cycle := congrArg (· + 1) h.cycle

/-- Both units answer in the same cycles, and the same word. -/
theorem SameTiming.fetch_eq : fetch s = fetch t := by
  obtain ⟨hr, -, -, -, -⟩ := (sameButOperand_iff _ _).1 h.pins
  have hq := h.queue
  unfold fetch
  cases hs : s.q with
  | nil =>
    cases ht : t.q with
    | nil => rfl
    | cons e rest => simp [hs, ht] at hq
  | cons e rest =>
    cases ht : t.q with
    | nil => simp [hs, ht] at hq
    | cons e' rest' =>
      simp only [hs, ht, List.map_cons, List.cons.injEq, Prod.mk.injEq] at hq
      obtain ⟨⟨hop, hwait⟩, -⟩ := hq
      simp only [hr, h.rspValid, hop, hwait]

/-- An offer changes no timing but `rsp_valid`, whatever result and error bit it carries. -/
theorem SameTiming.offer_same (y y' : Vec) (err err' : Bool) : SameTiming (s.offer y err) (t.offer y' err') where
  pins := h.pins
  script := h.script
  reqReady := h.reqReady
  rspValid := rfl
  queue := h.queue
  broken := h.broken
  held := h.held
  cycle := h.cycle

end

/-- Settles O20: the edge keeps the timing the same, after it both units answer or neither does, and an answer's result
has no timing. -/
theorem timingIsIndependentOfOperands : Obligations.TimingIsIndependentOfOperands := by
  intro s t h hold
  have hedge : SameTiming (clockEdge s) (clockEdge t) := h.clockEdge_same hold
  rcases step_eq_edge_or_offer s with ⟨hf, hs⟩ | ⟨hf, y, err, hs⟩ <;>
    rcases step_eq_edge_or_offer t with ⟨hf', ht⟩ | ⟨hf', y', err', ht⟩
  · exact ⟨_, _, hs, ht, hedge⟩
  · exact absurd (hedge.fetch_eq.symm.trans hf) hf'
  · exact absurd (hedge.fetch_eq.trans hf') hf
  · exact ⟨_, _, hs, ht, hedge.offer_same y y' err err'⟩

end Sys2Proof.Machine
end

section
/-! Progress (70_reset_and_hazards.md R336): a waiting head comes nearer to its response with every step, and a unit with
room comes nearer to the end of its patience. -/

namespace Sys2Proof.Machine

/-- What the requester drives satisfies `P` in this cycle and in every cycle of the script. -/
def alwaysDrives (P : Pins → Prop) (s : State) : Prop := P s.pins ∧ ∀ p ∈ s.script, P p

theorem alwaysDrives_of_step {P : Pins → Prop} {s t : State} (hs : alwaysDrives P s) (h : step s = .next t) :
    alwaysDrives P t := by
  obtain ⟨hpins, -, -, -, -, -, hscript⟩ := step_frame h
  obtain ⟨hnow, hlater⟩ := hs
  constructor
  · rw [hpins, nextPins]
    cases hsc : s.script with
    | nil => exact hnow
    | cons p ps => exact hlater p (by simp [hsc])
  · rw [hscript]
    exact fun p hp => hlater p (List.mem_of_mem_tail hp)

theorem not_offered_of_waiting {s : State} {e : Entry} {rest : List Entry} (hs : offersHead s) (hq : s.q = e :: rest)
    (hw : 0 < e.wait) : s.rspValid = false := by
  rw [Bool.eq_false_iff]
  intro hv
  obtain ⟨e', rest', hq', hw', -, -⟩ := hs hv
  cases hq.symm.trans hq'
  exact hw.ne' hw'

/-- Out of reset a step leaves a waiting head where it is, one cycle nearer to its response. -/
theorem step_of_waiting_head {s t : State} {e : Entry} {rest : List Entry} (hs : offersHead s) (hr : s.pins.rstN = true)
    (hq : s.q = e :: rest) (hw : 0 < e.wait) (h : step s = .next t) :
    ∃ e' rest', t.q = e' :: rest' ∧ e'.op = e.op ∧ e'.a = e.a ∧ e'.wait = e.wait - 1 := by
  obtain ⟨-, -, hqt, -, -, -, -⟩ := step_frame h
  have hnot : responseTaken s = false := by simp [responseTaken, not_offered_of_waiting hs hq hw]
  refine ⟨{ e.tick with spoiled := e.spoiled || cfgChanges s },
    spoil (cfgChanges s) (rest.map Entry.tick ++ (takenRequest s).toList), ?_, rfl, rfl, rfl⟩
  simp [hqt, nextQueue, queueAfterEdge, queueAfterTransfers, hr, hnot, hq, Entry.tick]

theorem offered_of_due {s : State} {e : Entry} {rest : List Entry} (hs : offersInTime s) (hr : s.pins.rstN = true)
    (hq : s.q = e :: rest) (hw : e.wait = 0) : s.rspValid = true := by
  rw [← Bool.not_eq_false]
  exact fun hv => (hs hr hv e rest hq).ne' hw

/-- By induction on the head's wait: a due head is offered, and a step leaves a waiting one with one cycle less. -/
theorem head_offered_within_wait (n : Nat) :
    ∀ {s : State} {e : Entry} {rest : List Entry}, UnitInv s → alwaysDrives (·.rstN = true) s → s.q = e :: rest →
      e.wait = n →
      ∃ (k : Nat) (t : State), k ≤ n ∧ stepMany k s = .next t ∧ t.rspValid = true ∧
        (requests t).head? = some (e.op, e.a) := by
  induction n with
  | zero =>
    intro s e rest hs hpins hq hw
    exact ⟨0, s, le_rfl, rfl, offered_of_due hs.inTime hpins.1 hq hw, by simp [requests, hq]⟩
  | succ n ih =>
    intro s e rest hs hpins hq hw
    obtain ⟨t, ht⟩ := exists_step_eq_next s
    obtain ⟨e', rest', hq', hop, ha, hw'⟩ := step_of_waiting_head hs.head hpins.1 hq (by omega) ht
    obtain ⟨k, u, hk, hrun, hoffered, hhead⟩ :=
      ih (step_keeps_unitInv hs ht) (alwaysDrives_of_step hpins ht) hq' (by omega)
    exact ⟨k + 1, u, by omega, (stepMany_succ ht k).trans hrun, hoffered, by rw [hhead, hop, ha]⟩

/-- Settles O18: the general bound, at the head's own wait. -/
theorem headIsOfferedWithinItsWait : Obligations.HeadIsOfferedWithinItsWait :=
  fun _ e _ hs hq hr hscript => head_offered_within_wait e.wait hs ⟨hr, hscript⟩ hq rfl

/-- The unit is ready for a request within `n` steps. -/
def readyWithin (n : Nat) (s : State) : Prop :=
  ∃ (k : Nat) (t : State), k ≤ n ∧ stepMany k s = .next t ∧ t.reqReady = true

theorem readyWithin_of_ready {s : State} (h : s.reqReady = true) (n : Nat) : readyWithin n s :=
  ⟨0, s, n.zero_le, rfl, h⟩

theorem readyWithin_of_step {s t : State} {n : Nat} (h : step s = .next t) (ht : readyWithin n t) :
    readyWithin (n + 1) s := by
  obtain ⟨k, u, hk, hrun, hready⟩ := ht
  exact ⟨k + 1, u, Nat.succ_le_succ hk, (stepMany_succ h k).trans hrun, hready⟩

theorem readyWithin_mono {s : State} {m n : Nat} (hmn : m ≤ n) (h : readyWithin m s) : readyWithin n s := by
  obtain ⟨k, t, hk, hrun⟩ := h
  exact ⟨k, t, hk.trans hmn, hrun⟩

/-- A state from which R336 promises `req_ready`: in the invariant, out of reset and with responses taken from here on, and
with no offer broken. -/
structure Draining (s : State) : Prop where
  inv : UnitInv s
  pins : alwaysDrives (fun p => p.rstN = true ∧ p.rspReady = true) s
  offers : keepsOffers s

theorem Draining.not_in_reset {s : State} (h : Draining s) : s.pins.rstN = true := h.pins.1.1

theorem Draining.not_broken {s : State} (h : Draining s) : s.reqBroken = false := h.offers 0 s rfl

theorem Draining.of_step {s t : State} (hs : Draining s) (h : step s = .next t) : Draining t where
  inv := step_keeps_unitInv hs.inv h
  pins := alwaysDrives_of_step hs.pins h
  offers := fun k u hu => hs.offers (k + 1) u ((stepMany_succ h k).trans hu)

theorem takenRequest_of_not_ready {s : State} (hb : s.reqBroken = false) (hready : s.reqReady = false) :
    takenRequest s = none := by
  simp [takenRequest_of_not_broken hb, hready]

/-- A unit that is not ready takes nothing in, so `Q` only gets shorter. -/
theorem nextQueue_length_of_not_ready {s : State} (hr : s.pins.rstN = true) (hb : s.reqBroken = false)
    (hready : s.reqReady = false) :
    (nextQueue s).length = (if responseTaken s then s.q.tail else s.q).length := by
  simp [nextQueue, queueAfterEdge, hr, queueAfterTransfers_length, takenRequest_of_not_ready hb hready]

/-- A cycle of a unit with room that is not ready, while `rsp_ready` is given, uses up patience (R336). -/
theorem nextHeld_of_not_ready {s : State} (hr : (nextPins s).rstN = true) (hroom : hasRoom (nextQueue s) = true)
    (hresp : (nextPins s).rspReady = true) (h : nextReqReady s = false) : nextHeld s = s.held + 1 := by
  simp [nextHeld, hr, hroom, hresp, h]

/-- A cycle of a draining unit with room that is not ready uses up patience (R336). -/
theorem Draining.held_of_step {s t : State} (hs : Draining s) (h : step s = .next t)
    (hroom : t.q.length < Config.qdepth) (hready : t.reqReady = false) : t.held = s.held + 1 := by
  obtain ⟨hpins, hreq, hq, -, hheld, -, -⟩ := step_frame h
  obtain ⟨hr, hresp⟩ := (hs.of_step h).pins.1
  rw [hheld]
  exact nextHeld_of_not_ready (hpins ▸ hr) (by simpa [hasRoom, hq] using hroom) (hpins ▸ hresp) (hreq ▸ hready)

/-- While the unit is not ready, `Q` does not grow, and loses its head where a response is offered. -/
theorem Draining.length_of_step {s t : State} (hs : Draining s) (h : step s = .next t) (hready : s.reqReady = false) :
    t.q.length = if s.rspValid then s.q.length - 1 else s.q.length := by
  obtain ⟨-, -, hq, -, -, -, -⟩ := step_frame h
  obtain ⟨hr, hresp⟩ := hs.pins.1
  rw [hq, nextQueue_length_of_not_ready hr hs.not_broken hready, apply_ite List.length, List.length_tail]
  simp [responseTaken, hresp]

/-- With room, the unit is ready when its patience is used up at the latest: by induction on the steps left to it, of
which the invariant's clause on patience leaves at least one. -/
theorem readyWithin_of_room (n : Nat) :
    ∀ {s : State}, Draining s → s.q.length < Config.qdepth → Config.patience < s.held + n → readyWithin n s := by
  induction n with
  | zero =>
    intro s hs _ hover
    exact absurd hs.inv.patience (Nat.not_le_of_lt hover)
  | succ n ih =>
    intro s hs hroom hover
    cases hready : s.reqReady with
    | true => exact readyWithin_of_ready hready _
    | false =>
      obtain ⟨t, ht⟩ := exists_step_eq_next s
      refine readyWithin_of_step ht ?_
      have hroom' : t.q.length < Config.qdepth := by
        rw [hs.length_of_step ht hready]
        split <;> omega
      cases hready' : t.reqReady with
      | true => exact readyWithin_of_ready hready' _
      | false => exact ih (hs.of_step ht) hroom' (by rw [hs.held_of_step ht hroom' hready']; omega)

/-- An answered head leaves room behind it, if the unit took nothing in meanwhile. -/
theorem Draining.readyWithin_of_offered {s : State} (hs : Draining s) (hv : s.rspValid = true) :
    readyWithin (Config.patience + 2) s := by
  cases hready : s.reqReady with
  | true => exact readyWithin_of_ready hready _
  | false =>
    obtain ⟨t, ht⟩ := exists_step_eq_next s
    have hroom : t.q.length < Config.qdepth := by
      have hcap := hs.inv.capacity.1
      have hdepth : 0 < Config.qdepth := Nat.succ_pos _
      rw [hs.length_of_step ht hready, if_pos hv]
      omega
    exact readyWithin_of_step ht (readyWithin_of_room _ (hs.of_step ht) hroom (by omega))

/-- By induction on the head's wait, as for the offer of the head. -/
theorem readyWithin_of_head (n : Nat) :
    ∀ {s : State} {e : Entry} {rest : List Entry}, Draining s → s.q = e :: rest → e.wait = n →
      readyWithin (n + Config.patience + 2) s := by
  induction n with
  | zero =>
    intro s e rest hs hq hw
    have hv : s.rspValid = true := offered_of_due hs.inv.inTime hs.not_in_reset hq hw
    exact readyWithin_mono (by omega) (hs.readyWithin_of_offered hv)
  | succ n ih =>
    intro s e rest hs hq hw
    obtain ⟨t, ht⟩ := exists_step_eq_next s
    obtain ⟨e', rest', hq', -, -, hw'⟩ := step_of_waiting_head hs.inv.head hs.not_in_reset hq (by omega) ht
    exact readyWithin_mono (by omega) (readyWithin_of_step ht (ih (hs.of_step ht) hq' (by omega)))

/-- Settles O19: an empty queue has room, and a head of the queue is answered and makes room. -/
theorem unitIsReadyWithinBound : Obligations.UnitIsReadyWithinBound := by
  intro s hs hr hresp hscript hoffers
  have hdrain : Draining s := ⟨hs, ⟨⟨hr, hresp⟩, hscript⟩, hoffers⟩
  change readyWithin _ s
  cases hq : s.q with
  | nil =>
    have hroom : s.q.length < Config.qdepth := by rw [hq]; exact Nat.succ_pos _
    exact readyWithin_mono (by omega) (readyWithin_of_room (Config.patience + 1) hdrain hroom (by omega))
  | cons e rest => exact readyWithin_of_head e.wait hdrain hq rfl

end Sys2Proof.Machine
end
